-- ==== Sys2Proof/Word.lean ====
section
/-! DEFINITION. The word types of the block (00_scope.md rule R8, rule R9): every value is unsigned, bit 0 is the
least significant bit, and arithmetic wraps only where a rule says so. -/

namespace Sys2Proof

/-- A frequency in hertz, 32 bits (rule R8). -/
abbrev Hz := BitVec 32

/-- A count of cycles, 64 bits, wrapping (rule R8, rule R44). -/
abbrev Cycles := BitVec 64

/-- A 32-bit byte address (rule R8). -/
abbrev Addr := BitVec 32

/-- A 32-bit data word: a command operand, a response, a trap cause, a frame handle. -/
abbrev Word := BitVec 32

/-- One byte, the contents of one slot of the interrupt-controller space (rule R74). -/
abbrev Byte := BitVec 8

end Sys2Proof
end

