-- ==== Sys2Proof/Syntax.lean ====
section
/-! DEFINITION. The instructions: one constructor per row of spec/opcode_table.json. The block has no instruction set
(00_scope.md rule R2); its operations are 16 host commands of 40 bits (30_encoding.md rule R102), 5 delay-unit requests
of 67 bits (rule R111) and 29 sequencer micro-steps selected by the 6-bit seq_pc (rule R112).

A command carries its whole 32-bit `arg` (rule R101): an ill-formed operand is not an undecodable word but a defined
fatal, F_FIELD, checked after the context (rule R110), so the syntax must be able to hold it. -/

namespace Sys2Proof

/-- The operations of the block. -/
inductive Instr where
  /-- CFG_SYSCLK, format S (rule R151). -/
  | cfgSysclk (arg : Word)
  /-- CFG_UART, format H (rule R152). -/
  | cfgUart (arg : Word)
  /-- CFG_SPI, format H (rule R153). -/
  | cfgSpi (arg : Word)
  /-- CFG_XTAL, format H (rule R154). -/
  | cfgXtal (arg : Word)
  /-- FREEZE, format Z (rule R170). -/
  | freeze (arg : Word)
  /-- RD_SYSCLK, format Z (rule R156). -/
  | rdSysclk (arg : Word)
  /-- RD_UART, format Z (rule R157). -/
  | rdUart (arg : Word)
  /-- RD_SPI, format Z (rule R158). -/
  | rdSpi (arg : Word)
  /-- RD_PLLEN, format Z (rule R159). -/
  | rdPllen (arg : Word)
  /-- RD_XTAL, format Z (rule R160). -/
  | rdXtal (arg : Word)
  /-- INSTALL, format A (rule R223, rule R224). -/
  | install (arg : Word)
  /-- ENABLE, format I (rule R225). -/
  | enable (arg : Word)
  /-- DISABLE, format I (rule R226). -/
  | disable (arg : Word)
  /-- CLEAR, format I (rule R227). -/
  | clear (arg : Word)
  /-- DISPATCH, format A (rule R229). -/
  | dispatch (arg : Word)
  /-- TRET, format Z (rule R231). -/
  | tret (arg : Word)
  /-- NOW, format D (rule R131). -/
  | now
  /-- ELAPSED, format D: cycles since `since` (rule R132). -/
  | elapsed (since : Cycles)
  /-- WAIT_CYCLES, format D (rule R133). -/
  | waitCycles (n : Cycles)
  /-- WAIT_MICROS, format D (rule R134). -/
  | waitMicros (us : BitVec 32)
  /-- WAIT_MILLIS, format D (rule R135). -/
  | waitMillis (ms : BitVec 32)
  /-- S_SAFE, format M (rule R173). -/
  | sSafe
  /-- S_REACH, format M (rule R174). -/
  | sReach
  /-- S_XTAL_ON, format M (rule R175). -/
  | sXtalOn
  /-- S_POLL_WAIT, format M (rule R176). -/
  | sPollWait
  /-- S_POLL_READ, format M (rule R178). -/
  | sPollRead
  /-- S_PLL_LOOKUP, format M (rule R179). -/
  | sPllLookup
  /-- S_PLL_FB, format M (rule R180). -/
  | sPllFb
  /-- S_PLL_CP, format M (rule R181). -/
  | sPllCp
  /-- S_PLL_PD, format M (rule R182). -/
  | sPllPd
  /-- S_PU_BIAS, format M (rule R183). -/
  | sPuBias
  /-- S_PU_CORE, format M (rule R184). -/
  | sPuCore
  /-- S_PU_CPDIV, format M (rule R185). -/
  | sPuCpdiv
  /-- S_SDM_SET, format M (rule R186). -/
  | sSdmSet
  /-- S_SDM_CLR, format M (rule R187). -/
  | sSdmClr
  /-- S_FBDV_SET, format M (rule R188). -/
  | sFbdvSet
  /-- S_FBDV_CLR, format M (rule R189). -/
  | sFbdvClr
  /-- S_TAPS, format M (rule R190). -/
  | sTaps
  /-- S_PLLSEL, format M (rule R191). -/
  | sPllsel
  /-- S_TAPSEL, format M (rule R192). -/
  | sTapsel
  /-- S_BUSDIV, format M (rule R193). -/
  | sBusdiv
  /-- S_ICACHE, format M (rule R194). -/
  | sIcache
  /-- S_SWITCH, format M (rule R195). -/
  | sSwitch
  /-- S_SHADOW, format M (rule R196). -/
  | sShadow
  /-- S_SETTLE, format M (rule R197). -/
  | sSettle
  /-- S_DIVCALC, format M (rule R199). -/
  | sDivcalc
  /-- S_UARTDIV, format M (rule R200). -/
  | sUartdiv
  /-- S_SPIDIV, format M (rule R201). -/
  | sSpidiv
  /-- S_DONE, format M (rule R204). -/
  | sDone
  /-- S_TIMEOUT, format M (rule R205). -/
  | sTimeout
  deriving DecidableEq, Repr

end Sys2Proof
end

