-- ==== Sys2Proof/Decode.lean ====
section
/-! DEFINITION. Decoding and encoding (30_encoding.md rule R101, rule R102, rule R111, rule R112; opcode_table.json).
The block reads instructions from three places: the command port (40 bits), the delay unit's request port (67 bits) and
the sequencer's micro-step counter (6 bits). -/

namespace Sys2Proof

/-- A word the block fetches, with the place it is fetched from. -/
inductive FetchWord where
  /-- `cmd[39:0]` on the command port (rule R100, rule R101). -/
  | command (w : BitVec 40)
  /-- `du[66:0]` on the delay unit's request port (rule R111). -/
  | delay (w : BitVec 67)
  /-- the value of `seq_pc` (rule R112). -/
  | micro (pc : BitVec 6)
  deriving DecidableEq, Repr

/-- Why a word decodes to no instruction. -/
inductive Reject where
  /-- A reserved opcode; the block raises F_ILLEGAL_CMD (rule R107). -/
  | reservedOpcode (op : BitVec 8)
  /-- A `du_op` of 5 to 7, which "never occur" (rule R111). -/
  | duOpNeverOccurs (op : BitVec 3)
  /-- A WAIT_MICROS or WAIT_MILLIS request whose bits 63:32 are not zero (rule R111). -/
  | duArgHighBits (duArg : BitVec 64)
  /-- A `seq_pc` that selects no micro-step: S_IDLE or a value that "never occurs" (10_state.md rule R24). -/
  | noMicroStep (pc : BitVec 6)
  deriving DecidableEq, Repr

/-- `op = cmd[39:32]` (rule R101). -/
def opcodeOf (w : BitVec 40) : BitVec 8 := w.extractLsb' 32 8

/-- `arg = cmd[31:0]` (rule R101). -/
def argOf (w : BitVec 40) : Word := w.extractLsb' 0 32

/-- The opcode map of rule R102. -/
def decodeCommand (w : BitVec 40) : Except Reject Instr :=
  match (opcodeOf w).toNat with
  | 0x01 => .ok (.cfgSysclk (argOf w))
  | 0x02 => .ok (.cfgUart (argOf w))
  | 0x03 => .ok (.cfgSpi (argOf w))
  | 0x04 => .ok (.cfgXtal (argOf w))
  | 0x05 => .ok (.freeze (argOf w))
  | 0x08 => .ok (.rdSysclk (argOf w))
  | 0x09 => .ok (.rdUart (argOf w))
  | 0x0A => .ok (.rdSpi (argOf w))
  | 0x0B => .ok (.rdPllen (argOf w))
  | 0x0C => .ok (.rdXtal (argOf w))
  | 0x10 => .ok (.install (argOf w))
  | 0x11 => .ok (.enable (argOf w))
  | 0x12 => .ok (.disable (argOf w))
  | 0x13 => .ok (.clear (argOf w))
  | 0x14 => .ok (.dispatch (argOf w))
  | 0x15 => .ok (.tret (argOf w))
  | _ => .error (.reservedOpcode (opcodeOf w))

/-- `du_op = du[66:64]` (rule R111). -/
def duOpOf (w : BitVec 67) : BitVec 3 := w.extractLsb' 64 3

/-- `du_arg = du[63:0]` (rule R111). -/
def duArgOf (w : BitVec 67) : BitVec 64 := w.extractLsb' 0 64

/-- A 32-bit duration zero-extended into `du_arg` (rule R111): refused where bits 63:32 are not zero. -/
def decodeDuration (duArg : BitVec 64) (make : BitVec 32 → Instr) : Except Reject Instr :=
  if duArg.extractLsb' 32 32 = 0#32 then .ok (make (duArg.extractLsb' 0 32)) else .error (.duArgHighBits duArg)

/-- The request map of rule R111. NOW ignores `du_arg`. -/
def decodeDelay (w : BitVec 67) : Except Reject Instr :=
  match (duOpOf w).toNat with
  | 0 => .ok .now
  | 1 => .ok (.elapsed (duArgOf w))
  | 2 => .ok (.waitCycles (duArgOf w))
  | 3 => decodeDuration (duArgOf w) .waitMicros
  | 4 => decodeDuration (duArgOf w) .waitMillis
  | _ => .error (.duOpNeverOccurs (duOpOf w))

/-- The micro-step a value of `seq_pc` selects (10_state.md rule R24). -/
def decodeMicro (pc : BitVec 6) : Except Reject Instr :=
  match pc.toNat with
  | 1 => .ok .sSafe
  | 2 => .ok .sReach
  | 3 => .ok .sXtalOn
  | 4 => .ok .sPollWait
  | 5 => .ok .sPollRead
  | 6 => .ok .sPllLookup
  | 7 => .ok .sPllFb
  | 8 => .ok .sPllCp
  | 9 => .ok .sPllPd
  | 10 => .ok .sPuBias
  | 11 => .ok .sPuCore
  | 12 => .ok .sPuCpdiv
  | 13 => .ok .sSdmSet
  | 14 => .ok .sSdmClr
  | 15 => .ok .sFbdvSet
  | 16 => .ok .sFbdvClr
  | 17 => .ok .sTaps
  | 18 => .ok .sPllsel
  | 19 => .ok .sTapsel
  | 20 => .ok .sBusdiv
  | 21 => .ok .sIcache
  | 22 => .ok .sSwitch
  | 23 => .ok .sShadow
  | 24 => .ok .sSettle
  | 30 => .ok .sDivcalc
  | 31 => .ok .sUartdiv
  | 32 => .ok .sSpidiv
  | 33 => .ok .sDone
  | 40 => .ok .sTimeout
  | _ => .error (.noMicroStep pc)

/-- The decoder: total, rejecting by name. -/
def decode : FetchWord → Except Reject Instr
  | .command w => decodeCommand w
  | .delay w => decodeDelay w
  | .micro pc => decodeMicro pc

/-- A command word from its two fields (rule R101). -/
def commandWord (op : BitVec 8) (arg : Word) : FetchWord := .command (op ++ arg)

/-- A delay-unit request from its two fields (rule R111). -/
def duWord (op : BitVec 3) (duArg : BitVec 64) : BitVec 67 := op ++ duArg

/-- The encoder, from the same tables. -/
def encode : Instr → FetchWord
  | .cfgSysclk arg => commandWord 0x01#8 arg
  | .cfgUart arg => commandWord 0x02#8 arg
  | .cfgSpi arg => commandWord 0x03#8 arg
  | .cfgXtal arg => commandWord 0x04#8 arg
  | .freeze arg => commandWord 0x05#8 arg
  | .rdSysclk arg => commandWord 0x08#8 arg
  | .rdUart arg => commandWord 0x09#8 arg
  | .rdSpi arg => commandWord 0x0A#8 arg
  | .rdPllen arg => commandWord 0x0B#8 arg
  | .rdXtal arg => commandWord 0x0C#8 arg
  | .install arg => commandWord 0x10#8 arg
  | .enable arg => commandWord 0x11#8 arg
  | .disable arg => commandWord 0x12#8 arg
  | .clear arg => commandWord 0x13#8 arg
  | .dispatch arg => commandWord 0x14#8 arg
  | .tret arg => commandWord 0x15#8 arg
  | .now => .delay (duWord 0#3 0#64)
  | .elapsed since => .delay (duWord 1#3 since)
  | .waitCycles n => .delay (duWord 2#3 n)
  | .waitMicros us => .delay (duWord 3#3 (us.setWidth 64))
  | .waitMillis ms => .delay (duWord 4#3 (ms.setWidth 64))
  | .sSafe => .micro 1#6
  | .sReach => .micro 2#6
  | .sXtalOn => .micro 3#6
  | .sPollWait => .micro 4#6
  | .sPollRead => .micro 5#6
  | .sPllLookup => .micro 6#6
  | .sPllFb => .micro 7#6
  | .sPllCp => .micro 8#6
  | .sPllPd => .micro 9#6
  | .sPuBias => .micro 10#6
  | .sPuCore => .micro 11#6
  | .sPuCpdiv => .micro 12#6
  | .sSdmSet => .micro 13#6
  | .sSdmClr => .micro 14#6
  | .sFbdvSet => .micro 15#6
  | .sFbdvClr => .micro 16#6
  | .sTaps => .micro 17#6
  | .sPllsel => .micro 18#6
  | .sTapsel => .micro 19#6
  | .sBusdiv => .micro 20#6
  | .sIcache => .micro 21#6
  | .sSwitch => .micro 22#6
  | .sShadow => .micro 23#6
  | .sSettle => .micro 24#6
  | .sDivcalc => .micro 30#6
  | .sUartdiv => .micro 31#6
  | .sSpidiv => .micro 32#6
  | .sDone => .micro 33#6
  | .sTimeout => .micro 40#6

/-- The instruction in answer to a table row's bits: a row of format M has 6 bits (one byte), a command 40, a delay-unit
request 67 (nine bytes). A bit beyond the row's own width selects nothing and is refused. -/
def tableFetchWord (nbits w : Nat) : Option FetchWord :=
  if nbits ≤ 8 then (if w < 2 ^ 6 then some (.micro (BitVec.ofNat 6 w)) else none)
  else if nbits ≤ 40 then (if w < 2 ^ 40 then some (.command (BitVec.ofNat 40 w)) else none)
  else (if w < 2 ^ 67 then some (.delay (BitVec.ofNat 67 w)) else none)

/-- What the decoder reads from a row's bits. -/
def decodeTableWord (nbits w : Nat) : Option Instr :=
  match tableFetchWord nbits w with
  | none => none
  | some f =>
    match decode f with
    | .ok i => some i
    | .error _ => none

end Sys2Proof
end

