-- ==== Sys2Proof/Config.lean ====
section
/-! DEFINITION. The implementation parameters of 00_scope.md rule R6 with the constraints of rule R6 and rule R7, their
defaults, and the free values the spec leaves to the environment.

The parameters are PLAIN DATA that the state carries and no step changes (log 1): a statement about every state is then a
statement about every admissible parameter set, which is what rule R6 ("the model takes the following parameters as
arguments") and rule R56 ("a model quantifies over them") ask. A free value is an opaque constant: nothing can be proved
of it. -/

namespace Sys2Proof

namespace Config

/-- `PLL_FB_W - 1`. The width is OPEN and at least 1 (rule R6, 92_eei_decisions.md D8); no number is chosen (log 2). -/
opaque pllFbWidthPred : Nat
/-- `PLL_CP_W - 1` (rule R6, log 2). -/
opaque pllCpWidthPred : Nat
/-- `PLL_PD_W - 1` (rule R6, log 2). -/
opaque pllPdWidthPred : Nat

/-- `PLL_FB_W`. -/
abbrev pllFbW : Nat := pllFbWidthPred + 1
/-- `PLL_CP_W`. -/
abbrev pllCpW : Nat := pllCpWidthPred + 1
/-- `PLL_PD_W`. -/
abbrev pllPdW : Nat := pllPdWidthPred + 1

/-- The feedback parameter the default `PLL_TABLE` gives a crystal frequency: uninterpreted (rule R6, log 2). -/
opaque pllFb : Hz → BitVec pllFbW
/-- The charge-pump parameter the default `PLL_TABLE` gives: uninterpreted (rule R6, log 2). -/
opaque pllCp : Hz → BitVec pllCpW
/-- The post-divider parameter the default `PLL_TABLE` gives: uninterpreted (rule R6, log 2). -/
opaque pllPd : Hz → BitVec pllPdW

/-- The answer of a read of `CT.xtal_ready` for which the environment has announced none: a fresh draw under no law
(10_state.md rule R31, 42_clock_sequencer.md rule R178). The argument is the number of such draws made before (log 3). -/
opaque xtalAnswer : Nat → Bool

/-- The arbiter's choice (60_exceptions.md rule R262): of the candidate list given it offers the member at this index
modulo the list's length. The first argument counts the deliveries made before, so the choice may be a function of the
set or differ each time (log 4). -/
opaque arbChoice : Nat → List Nat → Nat

end Config

/-- The source of a selectable system clock: the RC oscillator or PLL output tap `k` (rule R6). -/
inductive ClockSrc where
  | rc
  | tap (k : BitVec 3)
  deriving DecidableEq, Repr

/-- One entry of `SYSCLK_TABLE`: a selection code and its `(hz, src)` (rule R6). -/
structure SysclkEntry where
  sel : BitVec 8
  hz : Hz
  src : ClockSrc
  deriving DecidableEq, Repr

/-- The PLL parameters `(fb, cp, pd)`: opaque bit vectors the block only copies (rule R6, rule R38). -/
structure PllTriple where
  fb : BitVec Config.pllFbW
  cp : BitVec Config.pllCpW
  pd : BitVec Config.pllPdW
  deriving DecidableEq, Repr

/-- One entry of `PLL_TABLE`: a crystal frequency and its parameters (rule R6). -/
structure PllEntry where
  hz : Hz
  triple : PllTriple
  deriving DecidableEq, Repr

/-- The parameters of rule R6. `NSLOT` is derived, `CAUSE_W` is fixed at 32, `arb_select` is `Config.arbChoice`. -/
structure Params where
  /-- `F_RC_HZ`. -/
  fRcHz : Hz
  /-- `SYSCLK_TABLE`. -/
  sysclkTable : List SysclkEntry
  /-- `SYSCLK_RESET_SEL`. -/
  sysclkResetSel : BitVec 8
  /-- `NTAPS`. -/
  nTaps : Nat
  /-- `PLL_TABLE`. -/
  pllTable : List PllEntry
  /-- `XTAL_POLL_MAX`. -/
  xtalPollMax : BitVec 8
  /-- `XTAL_POLL_US`. -/
  xtalPollUs : BitVec 32
  /-- `T_BIAS_US`. -/
  tBiasUs : BitVec 32
  /-- `T_CORE_US`. -/
  tCoreUs : BitVec 32
  /-- `T_CPDIV_US`. -/
  tCpdivUs : BitVec 32
  /-- `T_SDM_PULSE_US`. -/
  tSdmPulseUs : BitVec 32
  /-- `T_SDM_US`. -/
  tSdmUs : BitVec 32
  /-- `T_FBDV_PULSE_US`. -/
  tFbdvPulseUs : BitVec 32
  /-- `T_FBDV_US`. -/
  tFbdvUs : BitVec 32
  /-- `T_SETTLE_US`. -/
  tSettleUs : BitVec 32
  /-- `BCLK_MAX_HZ`. -/
  bclkMaxHz : Hz
  /-- `BCLK_DIV_MAX`. -/
  bclkDivMax : Nat
  /-- `ICACHE_WS_THRESHOLD_HZ`. -/
  icacheWsThresholdHz : Hz
  /-- `UART_DIV_MAX`. -/
  uartDivMax : Nat
  /-- `SPI_DIV_MAX`. -/
  spiDivMax : Nat
  /-- `CTRL_BASE`. -/
  ctrlBase : Addr
  /-- `EN_OFF`. -/
  enOff : Addr
  /-- `PEND_OFF`. -/
  pendOff : Addr
  /-- `BITMAP_WORDS`. -/
  bitmapWords : Nat
  /-- `IRQ_BASE`. -/
  irqBase : Nat
  /-- `N_GPIO`. -/
  nGpio : Nat
  /-- `N_TCH0`. -/
  nTch0 : Nat
  /-- `N_TCH1`. -/
  nTch1 : Nat
  /-- `N_WDT`. -/
  nWdt : Nat
  deriving DecidableEq, Repr

namespace Params

/-- `NSLOT = 4 * BITMAP_WORDS` (rule R6). -/
def nslot (p : Params) : Nat := 4 * p.bitmapWords

/-- First address of the enable region, `CTRL_BASE + EN_OFF` (rule R74), as a number. -/
def enBase (p : Params) : Nat := p.ctrlBase.toNat + p.enOff.toNat

/-- First address of the pending region, `CTRL_BASE + PEND_OFF` (rule R74), as a number. -/
def pendBase (p : Params) : Nat := p.ctrlBase.toNat + p.pendOff.toNat

/-- The four IRQ numbers `IRQ_BASE + N_id` (rule R6, rule R221). -/
def irqNumbers (p : Params) : List Nat :=
  [p.irqBase + p.nGpio, p.irqBase + p.nTch0, p.irqBase + p.nTch1, p.irqBase + p.nWdt]

/-- The entry `SYSCLK_TABLE` gives a selection code, if it is a key. -/
def sysclkEntry (p : Params) (sel : BitVec 8) : Option SysclkEntry :=
  p.sysclkTable.find? (fun e => e.sel == sel)

/-- `PLL_TABLE` at a crystal frequency, if it is in the domain. -/
def pllEntry (p : Params) (hz : Hz) : Option PllEntry :=
  p.pllTable.find? (fun e => e.hz == hz)

/-- One power-up delay is in "1 to 5" (rule R6). -/
def delayOk (t : BitVec 32) : Bool := decide (1 ≤ t.toNat) && decide (t.toNat ≤ 5)

/-- `SYSCLK_TABLE` is a map, every `hz` is positive, every tap exists, exactly one entry is `RC`, its `hz` is `F_RC_HZ`
and its code is `SYSCLK_RESET_SEL` (rule R6, rule R7 (d)). -/
def sysclkTableOk (p : Params) : Bool :=
  decide ((p.sysclkTable.map (·.sel)).Nodup)
    && p.sysclkTable.all (fun e => decide (0 < e.hz.toNat) &&
      (match e.src with
        | .rc => e.hz == p.fRcHz && e.sel == p.sysclkResetSel
        | .tap k => decide (k.toNat < p.nTaps)))
    && decide ((p.sysclkTable.filter (fun e => e.src == .rc)).length = 1)

/-- The clock half's scalar constraints of rule R6. -/
def clockOk (p : Params) : Bool :=
  [decide (0 < p.fRcHz.toNat), decide (1 ≤ p.nTaps), decide (p.nTaps ≤ 8),
    decide ((p.pllTable.map (·.hz)).Nodup),
    decide (1 ≤ p.xtalPollMax.toNat), decide (1 ≤ p.xtalPollUs.toNat),
    delayOk p.tBiasUs, delayOk p.tCoreUs, delayOk p.tCpdivUs, delayOk p.tSdmPulseUs,
    delayOk p.tSdmUs, delayOk p.tFbdvPulseUs, delayOk p.tFbdvUs,
    decide (1 ≤ p.tSettleUs.toNat), decide (0 < p.bclkMaxHz.toNat),
    decide (1 ≤ p.bclkDivMax), decide (p.bclkDivMax ≤ 511),
    decide (1 ≤ p.uartDivMax), decide (p.uartDivMax ≤ 255),
    decide (1 ≤ p.spiDivMax), decide (p.spiDivMax ≤ 255)].all id

/-- The address constraints of rule R6 and rule R7 (a): aligned bases, 1 to 64 words, no overlap, no wrap past 2^32. -/
def spaceOk (p : Params) : Bool :=
  decide (p.ctrlBase.toNat % 4 = 0) && decide (p.enOff.toNat % 4 = 0) && decide (p.pendOff.toNat % 4 = 0)
    && decide (1 ≤ p.bitmapWords) && decide (p.bitmapWords ≤ 64)
    && decide (p.enBase + p.nslot ≤ 2 ^ 32) && decide (p.pendBase + p.nslot ≤ 2 ^ 32)
    && (decide (p.enBase + p.nslot ≤ p.pendBase) || decide (p.pendBase + p.nslot ≤ p.enBase))

/-- The IRQ-number constraints of rule R6 and rule R7 (b), (c): distinct, each below `NSLOT`. -/
def irqOk (p : Params) : Bool :=
  decide (p.irqBase ≤ 255) && decide (p.irqNumbers.Nodup) && p.irqNumbers.all (fun n => decide (n < p.nslot))

/-- The parameter set meets every constraint of rule R6 and rule R7; one that does not "is refused by the model, not
run" (rule R7). -/
def ok (p : Params) : Bool := p.clockOk && p.sysclkTableOk && p.spaceOk && p.irqOk

/-- The crystal frequencies of the default `PLL_TABLE` (rule R6, GK). -/
def defaultCrystals : List Hz :=
  [24000000#32, 26000000#32, 32000000#32, 38400000#32, 40000000#32]

/-- The defaults of rule R6. `State.reset` carries them; no statement needs them (log 1). -/
def default : Params where
  fRcHz := 32000000#32
  sysclkTable :=
    [⟨0#8, 32000000#32, .rc⟩, ⟨1#8, 48000000#32, .tap 0#3⟩,
     ⟨2#8, 120000000#32, .tap 1#3⟩, ⟨3#8, 160000000#32, .tap 2#3⟩]
  sysclkResetSel := 0#8
  nTaps := 4
  pllTable := defaultCrystals.map (fun hz => ⟨hz, ⟨Config.pllFb hz, Config.pllCp hz, Config.pllPd hz⟩⟩)
  xtalPollMax := 120#8
  xtalPollUs := 10#32
  tBiasUs := 5#32
  tCoreUs := 5#32
  tCpdivUs := 5#32
  tSdmPulseUs := 5#32
  tSdmUs := 5#32
  tFbdvPulseUs := 5#32
  tFbdvUs := 5#32
  tSettleUs := 5#32
  bclkMaxHz := 80000000#32
  bclkDivMax := 256
  icacheWsThresholdHz := 120000000#32
  uartDivMax := 7
  spiDivMax := 32
  ctrlBase := 0x02800000#32
  enOff := 0x400#32
  pendOff := 0x000#32
  bitmapWords := 24
  irqBase := 16
  nGpio := 44
  nTch0 := 36
  nTch1 := 37
  nWdt := 38

end Params

end Sys2Proof
end

