-- ==== Sys2Proof/Machine/State.lean ====
section
/-! DEFINITION. The state of the block (10_state.md): plain data, grouped as the spec groups it. One group per part:
the parameters, the configuration registers, the sequencer, the clock-tree fields, the Clocks descriptor, the delay unit,
the interrupt dispatcher, the interrupt-controller space, the ports, the traces, and the environment's pending events.

Fields marked MODEL'S OWN are not the spec's: they hold what the spec says in prose (a command in progress, a wait in
progress) or what the environment is about to do. -/

namespace Sys2Proof.Machine

/-- The CSC's architectural states (rule R23); the codes 9 to 15 "never occur" and have no constructor. -/
inductive SeqState where
  | unconfigured
  | safeDefault
  | crystalPowering
  | pllConfiguring
  | pllPoweringUp
  | pllStabilizing
  | rootClockSwitched
  | frozen
  | xtalTimeout
  deriving DecidableEq, Repr

/-- The values of `seq_pc` (rule R24); the other codes "never occur" and have no constructor. -/
inductive SeqPc where
  | idle
  | safe
  | reach
  | xtalOn
  | pollWait
  | pollRead
  | pllLookup
  | pllFb
  | pllCp
  | pllPd
  | puBias
  | puCore
  | puCpdiv
  | sdmSet
  | sdmClr
  | fbdvSet
  | fbdvClr
  | taps
  | pllsel
  | tapsel
  | busdiv
  | icache
  | switch
  | shadow
  | settle
  | divcalc
  | uartdiv
  | spidiv
  | done
  | timeout
  deriving DecidableEq, Repr

/-- The ITD's architectural states (rule R26); the code 3 "never occurs". -/
inductive DispState where
  | uninstalled
  | vectorInstalled
  | active
  deriving DecidableEq, Repr

/-- The phases of a trap (rule R27); the code 3 "never occurs". -/
inductive TrapPhase where
  | idle
  | trapped
  | inHandler
  deriving DecidableEq, Repr

/-- The fault codes (60_exceptions.md rule R251); `none` is F_NONE, the reset value. -/
inductive FaultCode where
  | none
  | xtalFreq
  | sysclk
  | uartDiv
  | spiDiv
  | field
  | consumed
  | unknownIrq
  | notInstalled
  | reinstall
  | illegalCmd
  | badContext
  | nestedTrap
  | notFrozen
  deriving DecidableEq, Repr

/-- The values of `rsp_status` (rule R34). -/
inductive RspStatus where
  | ok
  | timeout
  | fatal
  deriving DecidableEq, Repr

/-- The handlers, by index (43_interrupt_ops.md rule R220): the four recognized sources and EXC. -/
inductive Handler where
  | gpio
  | tch0
  | tch1
  | wdt
  | exc
  deriving DecidableEq, Repr

/-- The micro-steps of INSTALL still to come (43_interrupt_ops.md rule R224): I2, the next enable word of I3, the next
pending word of I4, I5. I1 is the step that accepts the command. -/
inductive InstallStep where
  | vector
  | enWord (w : Nat)
  | pendWord (w : Nat)
  | finish
  deriving DecidableEq, Repr

/-- An optional 32-bit frequency, 33 bits: `valid` and `hz` (rule R20). -/
structure OptFreq where
  valid : Bool
  hz : Hz
  deriving DecidableEq, Repr

/-- The absent frequency `(0, 0)` (rule R20). -/
def OptFreq.absent : OptFreq := ⟨false, 0#32⟩

/-- The configuration registers `x[0]` to `x[3]`, the source's builder (rule R20). -/
structure Builder where
  tgtSysclk : BitVec 8
  tgtUart : OptFreq
  tgtSpi : OptFreq
  xtal : OptFreq
  deriving DecidableEq, Repr

/-- A fresh builder: the RC selection, the three optional registers absent (rule R20, rule R55). -/
def Builder.fresh (p : Params) : Builder := ⟨p.sysclkResetSel, .absent, .absent, .absent⟩

/-- The sequencer: `seq_state` (rule R23), `seq_pc` (rule R24), `seq_busy` (rule R28), `poll_cnt` (rule R29),
`core_freq` (rule R33) and the working registers of rule R46. -/
structure Sequencer where
  state : SeqState
  pc : SeqPc
  busy : Bool
  pollCnt : BitVec 8
  coreFreq : Hz
  pllLatch : PllTriple
  tgtHz : Hz
  tgtTap : BitVec 3
  uartDivC : BitVec 8
  spiDivC : BitVec 8
  uartHzC : Hz
  spiHzC : Hz
  deriving DecidableEq, Repr

/-- The clock-tree control fields `CT.*` (rule R36 to rule R43): outputs no command and no micro-step reads. -/
structure ClockTree where
  rootSel : BitVec 1
  xtalPu : BitVec 1
  pllFb : BitVec Config.pllFbW
  pllCp : BitVec Config.pllCpW
  pllPd : BitVec Config.pllPdW
  pllBiasEn : BitVec 1
  pllCoreEn : BitVec 1
  pllCpdivEn : BitVec 1
  pllSdmRst : BitVec 1
  pllFbdvRst : BitVec 1
  /-- `NTAPS` bits, at most 8 (rule R41); the bits from `NTAPS` up do not exist and stay 0 (log 15). -/
  pllTapEn : BitVec 8
  pllSelEn : BitVec 1
  pllTapSel : BitVec 3
  hclkDiv : BitVec 9
  bclkDiv : BitVec 9
  icacheWs : BitVec 1
  uartDiv : BitVec 8
  spiDiv : BitVec 8
  deriving DecidableEq, Repr

/-- The Clocks descriptor (rule R32). -/
structure Clocks where
  valid : Bool
  sysclkHz : Hz
  uartHz : Hz
  spiHz : Hz
  xtal : OptFreq
  pllEn : Bool
  deriving DecidableEq, Repr

/-- The delay unit: the counter `cyc` (rule R44), the working registers `wait_start`, `wait_n` (rule R45), and its port to
the sequencer (30_encoding.md rule R111). `waiting` is MODEL'S OWN: a wait is in progress, `wait_start` and `wait_n` are
its. `req` is the request word while one stands; `reply` the value NOW or ELAPSED returned last; `done` the completion
signal of a wait. -/
structure DelayUnit where
  cyc : Cycles
  waitStart : Cycles
  waitN : Cycles
  waiting : Bool
  req : Option (BitVec 67)
  reply : Cycles
  done : Bool
  deriving DecidableEq, Repr

/-- The interrupt dispatcher: `disp_state` (rule R26), `trap_phase` (rule R27), `global_ie` (rule R47), `tvec` (rule R48),
`cause` (rule R49), `trap_pc` (rule R52), `handler_sel` and `handler_frame` (rule R51). `install` is INSTALL's internal
step counter, which "exists only while INSTALL runs" (30_encoding.md rule R112): `none` when no INSTALL is in progress. -/
structure Dispatcher where
  dispState : DispState
  trapPhase : TrapPhase
  globalIe : Bool
  tvec : Addr
  cause : Word
  trapPc : Addr
  handlerSel : BitVec 5
  handlerFrame : Word
  install : Option InstallStep
  deriving DecidableEq, Repr

/-- The host's port: `rsp_status`, `rsp_data` (rule R34), `halted`, `fault_code` (rule R30), and `cmd`, the command in
progress (30_encoding.md rule R100), MODEL'S OWN: the word the host holds on the port until the response. -/
structure Port where
  cmd : Option (BitVec 40)
  rspStatus : RspStatus
  rspData : Word
  halted : Bool
  faultCode : FaultCode
  deriving DecidableEq, Repr

/-- The names of the clock-tree control fields (rule R36 to rule R43), as `clk_trace` records them. -/
inductive CtField where
  | rootSel
  | xtalPu
  | pllFb
  | pllCp
  | pllPd
  | pllBiasEn
  | pllCoreEn
  | pllCpdivEn
  | pllSdmRst
  | pllFbdvRst
  | pllTapEn
  | pllSelEn
  | pllTapSel
  | hclkDiv
  | bclkDiv
  | icacheWs
  | uartDiv
  | spiDiv
  deriving DecidableEq, Repr

/-- An event of `clk_trace` (rule R53): a field write `W(f, v)`, a read `R(xtal_ready, b)`, a delay `D(n)`. -/
inductive ClkEvent where
  | w (f : CtField) (v : Nat)
  | r (b : Bool)
  | d (n : Cycles)
  deriving DecidableEq, Repr

/-- An event `MemWrite(addr, n, v)` of `mem_trace` (rule R53). -/
structure MemEvent where
  addr : Addr
  width : Nat
  value : Word
  deriving DecidableEq, Repr

/-- The three observation histories (rule R53): model bookkeeping of the spec's own. -/
structure Trace where
  clk : List ClkEvent
  mem : List MemEvent
  call : List (Handler × Word)
  deriving DecidableEq, Repr

/-- What may happen next, in the syntax of 30_encoding.md rule R114: the environment's events `!TICK`, `!XTAL b`,
`!RAISE n`, `!TRAP v`, the full hardware reset (70_reset_and_hazards.md rule R300), a command the host issues, and a turn
of the block's own agents (the delay unit, the sequencer, a command in progress, the trap unit). -/
inductive Event where
  | tick
  | xtal (b : Bool)
  | raise (n : Nat)
  | trap (v : Word)
  | reset
  | cmd (w : BitVec 40)
  | own
  deriving DecidableEq, Repr

/-- MODEL'S OWN: the outside world as data (log 5). `sched` lists the pending events, the next first; where it is empty
the block's own agents go on alone. `xtalAnswers` are the answers announced for the next reads of `CT.xtal_ready`;
`xtalDraws` and `arbDraws` count the free values drawn (log 3, log 4). -/
structure Env where
  sched : List Event
  xtalAnswers : List Bool
  xtalDraws : Nat
  arbDraws : Nat
  deriving DecidableEq, Repr

/-- The state of the block. `params` are the implementation parameters: fixed, read by the step and written by none
(log 1). `mem` holds the interrupt-controller space (20_memory.md rule R74), the latch bits `en[n]` and `pend[n]` of
rule R50, as cells in canonical form. -/
structure State where
  params : Params
  cfg : Builder
  seq : Sequencer
  ct : ClockTree
  clocks : Clocks
  du : DelayUnit
  itd : Dispatcher
  mem : List Host.Cell
  port : Port
  trace : Trace
  env : Env
  deriving DecidableEq, Repr

/-- Why the machine stops. -/
inductive Fault where
  /-- The block is halted after a fatal: "no agent of the block has a step … only reset leaves the state"
  (60_exceptions.md rule R250; 93_implementation_defined.md U34, treatment `stuck`). Raised by every meaning and by the
  step when `halted = 1`, except for the hardware reset. Safe: the run ends where the spec ends it. -/
  | halted (code : FaultCode)
  deriving DecidableEq, Repr

/-- Why an input is rejected without a meaning. Each is a `refuse` of 93_implementation_defined.md part 1. Safe: the
model says nothing of such runs. -/
inductive Refusal where
  /-- The instruction has no meaning yet. Raised by no arm now. -/
  | notModelled (mnemonic : String)
  /-- The parameter set breaks a constraint of rule R6 or rule R7 (U39). Raised by the step. -/
  | badParameters
  /-- An access to the interrupt-controller space outside the two regions, misaligned, or of another width (rule R78,
  U35). Raised by INSTALL, ENABLE, DISABLE, CLEAR under a parameter set that breaks rule R7 only. -/
  | noSuchSlot
  /-- An environment event that cannot occur: IRQ_RAISE of a slot that does not exist (rule R260), an injected interrupt
  cause while `global_ie = 0` (rule R264). Raised by the step. -/
  | eventNotAdmitted
  /-- A word on an internal port that "never occurs" (rule R24, rule R111, U37). Raised by the step. -/
  | neverOccurs
  /-- `tgt_sysclk` is no key of `SYSCLK_TABLE`, which no reachable state holds (rule R174, U37). Raised by S_REACH. -/
  | sysclkSelNotKey
  deriving DecidableEq, Repr

/-- The state after a full hardware reset (rule R55, rule R300), for given parameters and a given outside world. Where
rule R55 says "unspecified" the value is the model's, zero (log 6). -/
def State.powerUp (p : Params) (e : Env) : State where
  params := p
  cfg := .fresh p
  seq :=
    { state := .unconfigured, pc := .idle, busy := false, pollCnt := 0#8, coreFreq := 0#32,
      pllLatch := ⟨0#_, 0#_, 0#_⟩, tgtHz := 0#32, tgtTap := 0#3, uartDivC := 0#8, spiDivC := 0#8,
      uartHzC := 0#32, spiHzC := 0#32 }
  ct :=
    { rootSel := 0#1, xtalPu := 0#1, pllFb := 0#_, pllCp := 0#_, pllPd := 0#_, pllBiasEn := 0#1, pllCoreEn := 0#1,
      pllCpdivEn := 0#1, pllSdmRst := 0#1, pllFbdvRst := 0#1, pllTapEn := 0#8, pllSelEn := 0#1, pllTapSel := 0#3,
      hclkDiv := 0#9, bclkDiv := 0#9, icacheWs := 0#1, uartDiv := 0#8, spiDiv := 0#8 }
  clocks := { valid := false, sysclkHz := 0#32, uartHz := 0#32, spiHz := 0#32, xtal := .absent, pllEn := false }
  du := { cyc := 0#64, waitStart := 0#64, waitN := 0#64, waiting := false, req := none, reply := 0#64, done := false }
  itd :=
    { dispState := .uninstalled, trapPhase := .idle, globalIe := false, tvec := 0#32, cause := 0#32, trapPc := 0#32,
      handlerSel := 0#5, handlerFrame := 0#32, install := none }
  mem := []
  port := { cmd := none, rspStatus := .ok, rspData := 0#32, halted := false, faultCode := .none }
  trace := { clk := [], mem := [], call := [] }
  env := e

/-- The machine right after reset, with the default parameters of rule R6 and nothing pending from outside. -/
def State.reset : State := .powerUp .default ⟨[], [], 0, 0⟩

end Sys2Proof.Machine
end

