-- ==== Sys2Proof/Machine/Ops.lean ====
section
/-! DEFINITION. The named operations over the state: the encodings of the architectural values, the response and the
fatal (30_encoding.md rule R104, 60_exceptions.md rule R250), the two register spaces (20_memory.md), the delay unit's
arithmetic (40_delay_unit.md), taking a trap and returning from one (60_exceptions.md rule R263 to rule R267), the arbiter
(rule R262). -/

namespace Sys2Proof.Machine

/-! ### Numeric codes of the architectural values -/

/-- The 4-bit code of `seq_state` (rule R23). -/
def SeqState.code : SeqState → BitVec 4
  | .unconfigured => 0#4
  | .safeDefault => 1#4
  | .crystalPowering => 2#4
  | .pllConfiguring => 3#4
  | .pllPoweringUp => 4#4
  | .pllStabilizing => 5#4
  | .rootClockSwitched => 6#4
  | .frozen => 7#4
  | .xtalTimeout => 8#4

/-- The 6-bit code of `seq_pc` (rule R24). -/
def SeqPc.code : SeqPc → BitVec 6
  | .idle => 0#6
  | .safe => 1#6
  | .reach => 2#6
  | .xtalOn => 3#6
  | .pollWait => 4#6
  | .pollRead => 5#6
  | .pllLookup => 6#6
  | .pllFb => 7#6
  | .pllCp => 8#6
  | .pllPd => 9#6
  | .puBias => 10#6
  | .puCore => 11#6
  | .puCpdiv => 12#6
  | .sdmSet => 13#6
  | .sdmClr => 14#6
  | .fbdvSet => 15#6
  | .fbdvClr => 16#6
  | .taps => 17#6
  | .pllsel => 18#6
  | .tapsel => 19#6
  | .busdiv => 20#6
  | .icache => 21#6
  | .switch => 22#6
  | .shadow => 23#6
  | .settle => 24#6
  | .divcalc => 30#6
  | .uartdiv => 31#6
  | .spidiv => 32#6
  | .done => 33#6
  | .timeout => 40#6

/-- The values of `seq_pc` in the order of rule R24. -/
def SeqPc.all : List SeqPc :=
  [.idle, .safe, .reach, .xtalOn, .pollWait, .pollRead, .pllLookup, .pllFb, .pllCp, .pllPd, .puBias, .puCore,
   .puCpdiv, .sdmSet, .sdmClr, .fbdvSet, .fbdvClr, .taps, .pllsel, .tapsel, .busdiv, .icache, .switch, .shadow,
   .settle, .divcalc, .uartdiv, .spidiv, .done, .timeout]

/-- The value of `seq_pc` with a given code; none for a code that never occurs. -/
def SeqPc.ofCode (c : BitVec 6) : Option SeqPc := SeqPc.all.find? (fun pc => pc.code == c)

/-- The 2-bit code of `disp_state` (rule R26). -/
def DispState.code : DispState → BitVec 2
  | .uninstalled => 0#2
  | .vectorInstalled => 1#2
  | .active => 2#2

/-- The 2-bit code of `trap_phase` (rule R27). -/
def TrapPhase.code : TrapPhase → BitVec 2
  | .idle => 0#2
  | .trapped => 1#2
  | .inHandler => 2#2

/-- The 8-bit fault codes of rule R251. -/
def FaultCode.code : FaultCode → BitVec 8
  | .none => 0x00#8
  | .xtalFreq => 0x01#8
  | .sysclk => 0x02#8
  | .uartDiv => 0x03#8
  | .spiDiv => 0x04#8
  | .field => 0x05#8
  | .consumed => 0x06#8
  | .unknownIrq => 0x07#8
  | .notInstalled => 0x08#8
  | .reinstall => 0x09#8
  | .illegalCmd => 0x0A#8
  | .badContext => 0x0B#8
  | .nestedTrap => 0x0C#8
  | .notFrozen => 0x0D#8

/-- The 8-bit codes of `rsp_status` (rule R34). -/
def RspStatus.code : RspStatus → BitVec 8
  | .ok => 0x00#8
  | .timeout => 0x01#8
  | .fatal => 0x02#8

/-! ### The response and the fatal -/

/-- `respond(status, data)` (rule R104): drives the response port; the command in progress, if any, is complete. -/
def State.respond (s : State) (status : RspStatus) (data : Word) : State :=
  { s with port := { s.port with rspStatus := status, rspData := data, cmd := none } }

/-- `raise Fatal(code)` (rule R250): the one fault mechanism. It halts, records the code, responds `(FATAL, code)`, and
changes nothing else. -/
def State.fatal (s : State) (code : FaultCode) : State :=
  { s with port :=
      { cmd := none, rspStatus := .fatal, rspData := code.code.setWidth 32, halted := true, faultCode := code } }

/-! ### The clock-control field space -/

/-- A field's new value, whole (rule R72). -/
def ClockTree.set (ct : ClockTree) (f : CtField) (v : Nat) : ClockTree :=
  match f with
  | .rootSel => { ct with rootSel := BitVec.ofNat 1 v }
  | .xtalPu => { ct with xtalPu := BitVec.ofNat 1 v }
  | .pllFb => { ct with pllFb := BitVec.ofNat _ v }
  | .pllCp => { ct with pllCp := BitVec.ofNat _ v }
  | .pllPd => { ct with pllPd := BitVec.ofNat _ v }
  | .pllBiasEn => { ct with pllBiasEn := BitVec.ofNat 1 v }
  | .pllCoreEn => { ct with pllCoreEn := BitVec.ofNat 1 v }
  | .pllCpdivEn => { ct with pllCpdivEn := BitVec.ofNat 1 v }
  | .pllSdmRst => { ct with pllSdmRst := BitVec.ofNat 1 v }
  | .pllFbdvRst => { ct with pllFbdvRst := BitVec.ofNat 1 v }
  | .pllTapEn => { ct with pllTapEn := BitVec.ofNat 8 v }
  | .pllSelEn => { ct with pllSelEn := BitVec.ofNat 1 v }
  | .pllTapSel => { ct with pllTapSel := BitVec.ofNat 3 v }
  | .hclkDiv => { ct with hclkDiv := BitVec.ofNat 9 v }
  | .bclkDiv => { ct with bclkDiv := BitVec.ofNat 9 v }
  | .icacheWs => { ct with icacheWs := BitVec.ofNat 1 v }
  | .uartDiv => { ct with uartDiv := BitVec.ofNat 8 v }
  | .spiDiv => { ct with spiDiv := BitVec.ofNat 8 v }

/-- `clk_trace` with one more event (rule R53). -/
def State.clkEvent (s : State) (e : ClkEvent) : State :=
  { s with trace := { s.trace with clk := s.trace.clk ++ [e] } }

/-- `CTWrite(f, v)` (rule R73): the field, and `W(f, v)` in `clk_trace`. -/
def State.ctWrite (s : State) (f : CtField) (v : Nat) : State :=
  { s with ct := s.ct.set f v, trace := { s.trace with clk := s.trace.clk ++ [.w f v] } }

/-- `CTRead(xtal_ready)` (rule R73): the environment's answer, and `R(xtal_ready, b)` in `clk_trace`. An answer the
environment announced is used up; where it announced none the answer is a free value (rule R178, log 3). -/
def State.ctReadXtalReady (s : State) : Bool × State :=
  match s.env.xtalAnswers with
  | b :: rest => (b, { s.clkEvent (.r b) with env := { s.env with xtalAnswers := rest } })
  | [] =>
    (Config.xtalAnswer s.env.xtalDraws,
     { s.clkEvent (.r (Config.xtalAnswer s.env.xtalDraws)) with
        env := { s.env with xtalDraws := s.env.xtalDraws + 1 } })

/-! ### The interrupt-controller space

Cells are listed with addresses strictly rising; an unlisted address reads 0 and no listed byte is 0 (log 7). -/

/-- The byte at an address of the cell list; an unlisted address reads 0 (log 7). -/
def Memory.read : List Host.Cell → Nat → Byte
  | [], _ => 0#8
  | (b, v) :: m, a => if a = b then v else Memory.read m a

/-- The cell list with the byte at `a` set to `v`, in canonical form. -/
def Memory.write : List Host.Cell → Nat → Byte → List Host.Cell
  | [], a, v => if v = 0#8 then [] else [(a, v)]
  | (b, w) :: m, a, v =>
    if a < b then (if v = 0#8 then (b, w) :: m else (a, v) :: (b, w) :: m)
    else if a = b then (if v = 0#8 then m else (a, v) :: m)
    else (b, w) :: Memory.write m a v

/-- Every address of the list is above `a`. -/
def Memory.above (a : Nat) (m : List Host.Cell) : Bool := m.all (fun c => decide (a < c.1))

/-- The canonical form: addresses strictly rising, no entry equal to what an unlisted address reads as. -/
def Memory.wf : List Host.Cell → Bool
  | [] => true
  | (a, v) :: m => Memory.above a m && v != 0#8 && Memory.wf m

/-- Address of slot `n` of the enable region, `CTRL_BASE + EN_OFF + n` (rule R74): 32-bit additions (rule R138 (h)). -/
def enAddr (p : Params) (n : Nat) : Addr := p.ctrlBase + p.enOff + BitVec.ofNat 32 n

/-- Address of slot `n` of the pending region, `CTRL_BASE + PEND_OFF + n` (rule R74). -/
def pendAddr (p : Params) (n : Nat) : Addr := p.ctrlBase + p.pendOff + BitVec.ofNat 32 n

/-- `a` is an address of the enable region (rule R74). -/
def inEnable (p : Params) (a : Nat) : Bool := decide (p.enBase ≤ a) && decide (a < p.enBase + p.nslot)

/-- `a` is an address of the pending region (rule R74). -/
def inPending (p : Params) (a : Nat) : Bool := decide (p.pendBase ≤ a) && decide (a < p.pendBase + p.nslot)

/-- `a` is a slot address (rule R74). -/
def isSlot (p : Params) (a : Nat) : Bool := inEnable p a || inPending p a

/-- A word access at `a` is aligned and inside one region (rule R75, rule R77). -/
def isSlotWord (p : Params) (a : Nat) : Bool :=
  decide (a % 4 = 0) && ((inEnable p a && inEnable p (a + 3)) || (inPending p a && inPending p (a + 3)))

/-- The latch bit at an address: bit 0 of its slot (rule R74). -/
def State.latchAt (s : State) (a : Nat) : Bool := (Memory.read s.mem a).getLsbD 0

/-- `en[n]` (rule R50). -/
def State.en (s : State) (n : Nat) : Bool := s.latchAt (enAddr s.params n).toNat

/-- `pend[n]` (rule R50). -/
def State.pend (s : State) (n : Nat) : Bool := s.latchAt (pendAddr s.params n).toNat

/-- The slot byte holding a latch bit: bit 0 is the bit, bits 7 to 1 "hold nothing (read 0, writes ignored)" (rule
R74). -/
def slotByte (b : Bool) : Byte := if b then 1#8 else 0#8

/-- `MemRead(addr, n)` (rule R75, rule R79): the slot zero-extended, or four slots little-endian. `none` for an access
rule R78 gives no meaning. No command performs one. -/
def State.memRead (s : State) (addr : Addr) (n : Nat) : Option Word :=
  let a := addr.toNat
  if n = 1 then
    if isSlot s.params a then some ((slotByte (s.latchAt a)).setWidth 32) else none
  else if n = 4 then
    if isSlotWord s.params a then
      some (slotByte (s.latchAt (a + 3)) ++ slotByte (s.latchAt (a + 2))
        ++ slotByte (s.latchAt (a + 1)) ++ slotByte (s.latchAt a))
    else none
  else none

/-- The latch bit at an address set to `b`, nothing else (rule R76). -/
def State.setLatch (s : State) (a : Nat) (b : Bool) : State :=
  { s with mem := Memory.write s.mem a (slotByte b) }

/-- The four latch bits of a word access at `a` set to `v[0]`, `v[8]`, `v[16]`, `v[24]` (rule R77). -/
def writeWordCells (m : List Host.Cell) (a : Nat) (v : Word) : List Host.Cell :=
  Memory.write (Memory.write (Memory.write (Memory.write m a (slotByte (v.getLsbD 0)))
    (a + 1) (slotByte (v.getLsbD 8))) (a + 2) (slotByte (v.getLsbD 16))) (a + 3) (slotByte (v.getLsbD 24))

/-- `mem_trace` with one more event (rule R53). -/
def State.memEvent (s : State) (e : MemEvent) : State :=
  { s with trace := { s.trace with mem := s.trace.mem ++ [e] } }

/-- `MemWrite(addr, n, v)` (rule R76, rule R77): the latch bits, and the event in `mem_trace`. `none` for an access rule
R78 gives no meaning. -/
def State.memWrite (s : State) (addr : Addr) (n : Nat) (v : Word) : Option State :=
  let a := addr.toNat
  if n = 1 then
    if isSlot s.params a then some ((s.setLatch a (v.getLsbD 0)).memEvent ⟨addr, 1, v⟩) else none
  else if n = 4 then
    if isSlotWord s.params a then
      some (({ s with mem := writeWordCells s.mem a v } : State).memEvent ⟨addr, 4, v⟩)
    else none
  else none

/-! ### The delay unit -/

/-- `cyc <- (cyc + 1) mod 2^64`, the environment's TICK (rule R130). -/
def State.tick (s : State) : State := { s with du := { s.du with cyc := s.du.cyc + 1#64 } }

/-- The elapsed count `(NOW() - since) mod 2^64` (rule R132). -/
def DelayUnit.elapsed (d : DelayUnit) (since : Cycles) : Cycles := d.cyc - since

/-- Microseconds to cycles at a core frequency (rule R134): the exact product, truncating division by 1,000,000. -/
def microsToCycles (us : BitVec 32) (coreFreq : Hz) : Cycles :=
  BitVec.ofNat 64 (us.toNat * coreFreq.toNat / 1000000)

/-- Milliseconds to cycles at a core frequency (rule R135). -/
def millisToCycles (ms : BitVec 32) (coreFreq : Hz) : Cycles :=
  BitVec.ofNat 64 (ms.toNat * coreFreq.toNat / 1000)

/-- The beginning of WAIT_CYCLES: `wait_start <- NOW(); wait_n <- n` (rule R133). -/
def State.beginWait (s : State) (n : Cycles) : State :=
  { s with du := { s.du with waitStart := s.du.cyc, waitN := n, waiting := true } }

/-- The end of WAIT_CYCLES: `D(n)` in `clk_trace`, the completion signal, the request withdrawn (rule R133, rule R111). -/
def State.endWait (s : State) : State :=
  { s.clkEvent (.d s.du.waitN) with du := { s.du with waiting := false, done := true, req := none } }

/-- One evaluation of the wait's test, "the comparison `>=` is unsigned 64-bit" (rule R133). -/
def State.testWait (s : State) : State :=
  if s.du.waitN ≤ s.du.elapsed s.du.waitStart then s.endWait else s

/-- WAIT_CYCLES(n) (rule R133): begun if none is in progress, then one evaluation of the test. -/
def State.waitCycles (s : State) (n : Cycles) : State :=
  if s.du.waiting then s.testWait else (s.beginWait n).testWait

/-- The sequencer's request of WAIT_MICROS(us) to the delay unit (rule R111). -/
def State.requestMicros (s : State) (us : BitVec 32) : State :=
  { s with du := { s.du with req := some (duWord 3#3 (us.setWidth 64)) } }

/-- The wait part of a micro-step (42_clock_sequencer.md rule R171): with no request standing, the writes `before` and
then the request; while it stands the sequencer holds; when the completion signal is there `seq_pc` moves to `succ`. -/
def State.heldFor (s : State) (us : BitVec 32) (succ : SeqPc) (before : State → State) : State :=
  if s.du.done then { s with du := { s.du with done := false }, seq := { s.seq with pc := succ } }
  else if s.du.req.isSome then s
  else (before s).requestMicros us

/-! ### The arbiter, taking a trap, returning from one -/

/-- `cand` (rule R262): the slots enabled and pending. -/
def State.candidates (s : State) : List Nat :=
  (List.range s.params.nslot).filter (fun n => s.en n && s.pend n)

/-- `arb_select` (rule R262): a sole candidate is offered; among several the choice is free (log 4). -/
def arbSelect (draws : Nat) : List Nat → Option Nat
  | [] => none
  | [n] => some n
  | n :: m :: ns => (n :: m :: ns)[Config.arbChoice draws (n :: m :: ns) % (ns.length + 2)]?

/-- TAKING A TRAP (rule R263, rule R264, rule R265): `cause`, `trap_phase` and `trap_pc`, and nothing else. -/
def State.enterTrap (s : State) (cause : Word) : State :=
  { s with itd := { s.itd with cause := cause, trapPhase := .trapped, trapPc := s.itd.tvec } }

/-- RETURNING FROM A TRAP (43_interrupt_ops.md rule R231): the phase, and the two handler outputs cleared. -/
def State.leaveTrap (s : State) : State :=
  { s with itd := { s.itd with trapPhase := .idle, handlerSel := 0#5, handlerFrame := 0#32 } }

/-- The cause of an interrupt trap from slot `n`, `(1 << 31) | zext_32(n)` (rule R263). -/
def interruptCause (n : Nat) : Word := 0x80000000#32 ||| BitVec.ofNat 32 n

/-- The delivery condition of rule R263. -/
def State.deliverable (s : State) : Bool :=
  !s.port.halted && s.itd.dispState != .uninstalled && s.itd.globalIe && !s.seq.busy
    && s.itd.trapPhase == .idle && s.port.cmd.isNone && !s.candidates.isEmpty

/-- Delivery of an interrupt trap (rule R263): the arbiter's choice becomes the cause. -/
def State.deliver (s : State) : State :=
  match arbSelect s.env.arbDraws s.candidates with
  | none => s
  | some n => ({ s with env := { s.env with arbDraws := s.env.arbDraws + 1 } } : State).enterTrap (interruptCause n)

/-! ### The end of a sequence -/

/-- The builder consumed, the sequencer idle, the host released (42_clock_sequencer.md rule R204, rule R205). -/
def State.endSequence (s : State) (final : SeqState) (status : RspStatus) : State :=
  ({ s with
      cfg := .fresh s.params
      seq := { s.seq with state := final, busy := false, pc := .idle } } : State).respond status 0#32

end Sys2Proof.Machine
end

