-- ==== Sys2Proof/WellFormed.lean ====
section
/-! DEFINITION. Well-formed instructions: the operand formats of 30_encoding.md rule R103. A command whose operand
breaks its format is still an instruction: the block answers it with the fatal F_FIELD (rule R108). -/

namespace Sys2Proof

/-- Format Z: no operand, `arg` is 0 (rule R103). -/
def formatZ (arg : Word) : Bool := arg == 0#32

/-- Format S: `arg[31:8]` is 0 and `arg[7:0]` is a key of `SYSCLK_TABLE` (rule R103). -/
def formatS (p : Params) (arg : Word) : Bool :=
  arg.extractLsb' 8 24 == 0#24 && (p.sysclkEntry (arg.extractLsb' 0 8)).isSome

/-- Format H: a frequency that is not 0 (rule R103). -/
def formatH (arg : Word) : Bool := arg != 0#32

/-- The values an interrupt identity may have: the four recognized ones and UNKNOWN (rule R103, rule R220). -/
def identityByte (b : Byte) : Bool :=
  b == 0x00#8 || b == 0x01#8 || b == 0x02#8 || b == 0x03#8 || b == 0xFF#8

/-- Format I: `arg[31:8]` is 0 and `arg[7:0]` is an identity (rule R103). -/
def formatI (arg : Word) : Bool :=
  arg.extractLsb' 8 24 == 0#24 && identityByte (arg.extractLsb' 0 8)

/-- The operand of `i` meets its format under the parameters `p`. Format A admits every value, formats D and M have no
ill-formed operand in the syntax. -/
def Instr.wellFormed (p : Params) : Instr → Bool
  | .cfgSysclk arg => formatS p arg
  | .cfgUart arg => formatH arg
  | .cfgSpi arg => formatH arg
  | .cfgXtal arg => formatH arg
  | .freeze arg => formatZ arg
  | .rdSysclk arg => formatZ arg
  | .rdUart arg => formatZ arg
  | .rdSpi arg => formatZ arg
  | .rdPllen arg => formatZ arg
  | .rdXtal arg => formatZ arg
  | .install _ => true
  | .enable arg => formatI arg
  | .disable arg => formatI arg
  | .clear arg => formatI arg
  | .dispatch _ => true
  | .tret arg => formatZ arg
  | .now => true
  | .elapsed _ => true
  | .waitCycles _ => true
  | .waitMicros _ => true
  | .waitMillis _ => true
  | .sSafe => true
  | .sReach => true
  | .sXtalOn => true
  | .sPollWait => true
  | .sPollRead => true
  | .sPllLookup => true
  | .sPllFb => true
  | .sPllCp => true
  | .sPllPd => true
  | .sPuBias => true
  | .sPuCore => true
  | .sPuCpdiv => true
  | .sSdmSet => true
  | .sSdmClr => true
  | .sFbdvSet => true
  | .sFbdvClr => true
  | .sTaps => true
  | .sPllsel => true
  | .sTapsel => true
  | .sBusdiv => true
  | .sIcache => true
  | .sSwitch => true
  | .sShadow => true
  | .sSettle => true
  | .sDivcalc => true
  | .sUartdiv => true
  | .sSpidiv => true
  | .sDone => true
  | .sTimeout => true

end Sys2Proof
end

