-- ==== Sys2Proof/Machine/Operands.lean ====
section
/-! DEFINITION. The operand forms of 30_encoding.md rule R103 as values, the interrupt identities and their two mapping
functions (43_interrupt_ops.md rule R220 to rule R222), and the cause decoder (rule R228). -/

namespace Sys2Proof.Machine

/-- The recognized interrupt identities (rule R220). -/
inductive IrqId where
  | gpio
  | tch0
  | tch1
  | wdt
  deriving DecidableEq, Repr

/-- Format S: `sel = arg[7:0]` (rule R103). -/
def selOf (arg : Word) : BitVec 8 := arg.extractLsb' 0 8

/-- Format I: `id = arg[7:0]` (rule R103). -/
def idByteOf (arg : Word) : Byte := arg.extractLsb' 0 8

/-- The identity a format-I byte names (rule R220); `none` is UNKNOWN, and every byte that is no identity. -/
def identityOf (b : Byte) : Option IrqId :=
  if b = 0x00#8 then some .gpio
  else if b = 0x01#8 then some .tch0
  else if b = 0x02#8 then some .tch1
  else if b = 0x03#8 then some .wdt
  else none

/-- `irq_of(id)` (rule R221). -/
def irqOf (p : Params) : IrqId → Nat
  | .gpio => p.irqBase + p.nGpio
  | .tch0 => p.irqBase + p.nTch0
  | .tch1 => p.irqBase + p.nTch1
  | .wdt => p.irqBase + p.nWdt

/-- `id_of(n)` (rule R222): the identity whose IRQ number is `n`, `none` for UNKNOWN. -/
def idOf (p : Params) (n : Byte) : Option IrqId :=
  if n.toNat = irqOf p .gpio then some .gpio
  else if n.toNat = irqOf p .tch0 then some .tch0
  else if n.toNat = irqOf p .tch1 then some .tch1
  else if n.toNat = irqOf p .wdt then some .wdt
  else none

/-- The handler of an identity: "the same indices name the handlers" (rule R220). -/
def IrqId.handler : IrqId → Handler
  | .gpio => .gpio
  | .tch0 => .tch0
  | .tch1 => .tch1
  | .wdt => .wdt

/-- The handler index (rule R220). -/
def Handler.index : Handler → Nat
  | .gpio => 0
  | .tch0 => 1
  | .tch1 => 2
  | .wdt => 3
  | .exc => 4

/-- `1 << h`, one-hot in 5 bits (rule R229). -/
def Handler.oneHot (h : Handler) : BitVec 5 := 1#5 <<< h.index

/-- `decode_cause(c)` (rule R228): the flag first, then the low byte; bits 30:8 are not examined. -/
def decodeCause (p : Params) (c : Word) : Handler :=
  if c.getLsbD 31 then
    match idOf p (c.extractLsb' 0 8) with
    | some i => i.handler
    | none => .exc
  else .exc

end Sys2Proof.Machine
end

