-- ==== Sys2Proof/Machine/Flags.lean ====
section
/-! DEFINITION. The status a command reads before it acts: the checks of 30_encoding.md rule R110 in their order, with
the context check of rule R109 and the state preconditions, and the guard every agent's step has (60_exceptions.md rule
R250). -/

namespace Sys2Proof.Machine

/-- What a meaning answers. -/
abbrev Result := Host.Outcome State Fault Refusal

/-- "While `halted = 1` no agent of the block has a step" (rule R30, rule R250). -/
def unlessHalted (s : State) (body : State → Result) : Result :=
  if s.port.halted then .fault (.halted s.port.faultCode) else body s

/-- The context check for a command that is neither DISPATCH nor TRET: not accepted in TRAPPED (rule R109). -/
def contextPlain (ph : TrapPhase) : Bool := ph != .trapped

/-- The context check for DISPATCH: accepted only in TRAPPED (rule R109). -/
def contextDispatch (ph : TrapPhase) : Bool := ph == .trapped

/-- The context check for TRET: accepted only in IN_HANDLER (rule R109). -/
def contextTret (ph : TrapPhase) : Bool := ph == .inHandler

/-- The token is available (41_clock_config.md rule R150). -/
def SeqState.tokenFree (st : SeqState) : Bool := st == .unconfigured || st == .xtalTimeout

/-- Check 5 for CFG_* and FREEZE: the token (rule R110, rule R150). -/
def needToken (s : State) : Option FaultCode := if s.seq.state.tokenFree then none else some .consumed

/-- Check 5 for RD_*: the descriptor exists (rule R110). -/
def needClocks (s : State) : Option FaultCode := if s.clocks.valid then none else some .notFrozen

/-- Check 5 for INSTALL: not installed yet (rule R110). -/
def needUninstalled (s : State) : Option FaultCode :=
  if s.itd.dispState = .uninstalled then none else some .reinstall

/-- Checks 5 and 6 for ENABLE, DISABLE, CLEAR: installed, then a recognized identity (rule R110). -/
def needInstalledIrq (s : State) (arg : Word) : Option FaultCode :=
  if s.itd.dispState = .uninstalled then some .notInstalled
  else if (identityOf (idByteOf arg)).isNone then some .unknownIrq
  else none

/-- The first failing check of 3 to 6 (rule R110): context, operand form, state precondition and unknown identity. -/
def firstFailure (context form : Bool) (pre : Option FaultCode) : Option FaultCode :=
  if !context then some .badContext
  else if !form then some .field
  else pre

/-- A command (rule R110): check 1, then the first failing of checks 3 to 6 is raised, else the command's own rule. Check
2, the reserved opcode, is made where the word is decoded (`Machine.runWord`). -/
def command (s : State) (context form : Bool) (pre : Option FaultCode) (body : State → Result) : Result :=
  unlessHalted s fun s =>
    match firstFailure context form pre with
    | some code => .next (s.fatal code)
    | none => body s

end Sys2Proof.Machine
end

