-- ==== Sys2Proof/Machine/Clock.lean ====
section
/-! DEFINITION. The clock configuration commands, the descriptor reads (41_clock_config.md) and FREEZE
(42_clock_sequencer.md rule R170). -/

namespace Sys2Proof.Machine

/-- A frequency present in a configuration register (rule R152). -/
def OptFreq.some (hz : Hz) : OptFreq := ⟨true, hz⟩

/-- A configuration command: the context, the operand form, the token (rule R150), then the register and `(OK, 0)`. -/
def configure (s : State) (form : Bool) (set : Builder → Builder) : Result :=
  command s (contextPlain s.itd.trapPhase) form (needToken s) fun s =>
    .next (({ s with cfg := set s.cfg } : State).respond .ok 0#32)

/-- CFG_SYSCLK (rule R151). -/
def execCfgSysclk (arg : Word) (s : State) : Result :=
  configure s (formatS s.params arg) fun b => { b with tgtSysclk := selOf arg }

/-- CFG_UART (rule R152). -/
def execCfgUart (arg : Word) (s : State) : Result :=
  configure s (formatH arg) fun b => { b with tgtUart := .some arg }

/-- CFG_SPI (rule R153). -/
def execCfgSpi (arg : Word) (s : State) : Result :=
  configure s (formatH arg) fun b => { b with tgtSpi := .some arg }

/-- CFG_XTAL (rule R154). -/
def execCfgXtal (arg : Word) (s : State) : Result :=
  configure s (formatH arg) fun b => { b with xtal := .some arg }

/-- FREEZE (rule R170): accepted, it starts the sequencer and does not respond yet. -/
def execFreeze (arg : Word) (s : State) : Result :=
  command s (contextPlain s.itd.trapPhase) (formatZ arg) (needToken s) fun s =>
    .next { s with seq := { s.seq with busy := true, pc := .safe } }

/-- A descriptor read: the context, the operand form, the descriptor's existence, then `(OK, value)`. -/
def readClocks (s : State) (arg : Word) (value : Clocks → Word) : Result :=
  command s (contextPlain s.itd.trapPhase) (formatZ arg) (needClocks s) fun s =>
    .next (s.respond .ok (value s.clocks))

/-- RD_SYSCLK (rule R156). -/
def execRdSysclk (arg : Word) (s : State) : Result := readClocks s arg (·.sysclkHz)

/-- RD_UART (rule R157). -/
def execRdUart (arg : Word) (s : State) : Result := readClocks s arg (·.uartHz)

/-- RD_SPI (rule R158). -/
def execRdSpi (arg : Word) (s : State) : Result := readClocks s arg (·.spiHz)

/-- RD_PLLEN (rule R159). -/
def execRdPllen (arg : Word) (s : State) : Result := readClocks s arg fun c => if c.pllEn then 1#32 else 0#32

/-- RD_XTAL (rule R160): 0 stands for an absent crystal. -/
def execRdXtal (arg : Word) (s : State) : Result :=
  readClocks s arg fun c => if c.xtal.valid then c.xtal.hz else 0#32

end Sys2Proof.Machine
end

