-- ==== Sys2Proof/Machine/Delay.lean ====
section
/-! DEFINITION. The delay unit's five operations (40_delay_unit.md). They are requested with the word of 30_encoding.md
rule R111 on the unit's own port; "none of these operations can fail" (rule R136). A wait is re-evaluated at every turn of
the unit until its test holds: "busy-loops … blocks the calling context entirely" (rule R133). -/

namespace Sys2Proof.Machine

/-- A value in answer to a request: on the reply port, the request withdrawn (rule R111). -/
def State.replyWith (s : State) (v : Cycles) : State := { s with du := { s.du with reply := v, req := none } }

/-- NOW (rule R131): the counter. -/
def execNow (s : State) : Result := unlessHalted s fun s => .next (s.replyWith s.du.cyc)

/-- ELAPSED (rule R132): the counter less `since`, wrapping. -/
def execElapsed (since : Cycles) (s : State) : Result :=
  unlessHalted s fun s => .next (s.replyWith (s.du.elapsed since))

/-- WAIT_CYCLES (rule R133). -/
def execWaitCycles (n : Cycles) (s : State) : Result := unlessHalted s fun s => .next (s.waitCycles n)

/-- WAIT_MICROS (rule R134): `n` from the recorded core frequency, then WAIT_CYCLES. -/
def execWaitMicros (us : BitVec 32) (s : State) : Result :=
  unlessHalted s fun s => .next (s.waitCycles (microsToCycles us s.seq.coreFreq))

/-- WAIT_MILLIS (rule R135). -/
def execWaitMillis (ms : BitVec 32) (s : State) : Result :=
  unlessHalted s fun s => .next (s.waitCycles (millisToCycles ms s.seq.coreFreq))

end Sys2Proof.Machine
end

