-- ==== Sys2Proof/Machine/Interrupt.lean ====
section
/-! DEFINITION. The interrupt dispatcher's commands (43_interrupt_ops.md). -/

namespace Sys2Proof.Machine

/-- A word of an INSTALL sweep cleared (rule R224 I3, I4), then the next INSTALL micro-step. -/
def clearWord (s : State) (base : Addr) (w : Nat) (next : InstallStep) : Result :=
  match s.memWrite (base + BitVec.ofNat 32 (4 * w)) 4 0#32 with
  | none => .refused .noSuchSlot
  | some t => .next { t with itd := { t.itd with install := some next } }

/-- After word `w` of the enable sweep: the next word, or the pending sweep (rule R224 I3). -/
def afterEnWord (p : Params) (w : Nat) : InstallStep :=
  if w + 1 < p.bitmapWords then .enWord (w + 1) else .pendWord 0

/-- After word `w` of the pending sweep: the next word, or I5 (rule R224 I4). -/
def afterPendWord (p : Params) (w : Nat) : InstallStep :=
  if w + 1 < p.bitmapWords then .pendWord (w + 1) else .finish

/-- INSTALL (rule R223, rule R224): the checks and I1 when the command is accepted, then one access of I2 to I5 at each
further turn while the host is held; the environment may act between any two (20_memory.md rule R83 (d)). -/
def execInstall (arg : Word) (s : State) : Result :=
  match s.itd.install with
  | none =>
    command s (contextPlain s.itd.trapPhase) true (needUninstalled s) fun s =>
      .next { s with itd := { s.itd with globalIe := false, install := some .vector } }
  | some .vector =>
    unlessHalted s fun s => .next { s with itd := { s.itd with tvec := arg, install := some (.enWord 0) } }
  | some (.enWord w) =>
    unlessHalted s fun s => clearWord s (s.params.ctrlBase + s.params.enOff) w (afterEnWord s.params w)
  | some (.pendWord w) =>
    unlessHalted s fun s => clearWord s (s.params.ctrlBase + s.params.pendOff) w (afterPendWord s.params w)
  | some .finish =>
    unlessHalted s fun s =>
      .next (({ s with itd := { s.itd with globalIe := true, dispState := .vectorInstalled, install := none } }
        : State).respond .ok 0#32)

/-- A byte write to the slot of the identity `arg` names, at `addr` of its IRQ number; then `(OK, 0)`. Check 6 has
excluded UNKNOWN. -/
def writeSlot (s : State) (arg : Word) (addr : Params → Nat → Addr) (v : Word) (after : State → State) : Result :=
  match identityOf (idByteOf arg) with
  | none => .next (s.fatal .unknownIrq)
  | some id =>
    match s.memWrite (addr s.params (irqOf s.params id)) 1 v with
    | none => .refused .noSuchSlot
    | some t => .next ((after t).respond .ok 0#32)

/-- The first ENABLE makes the dispatcher ACTIVE (rule R225, 10_state.md rule R26). -/
def activate (s : State) : State :=
  if s.itd.dispState = .vectorInstalled then { s with itd := { s.itd with dispState := .active } } else s

/-- ENABLE (rule R225). -/
def execEnable (arg : Word) (s : State) : Result :=
  command s (contextPlain s.itd.trapPhase) (formatI arg) (needInstalledIrq s arg) fun s =>
    writeSlot s arg enAddr 0x01#32 activate

/-- DISABLE (rule R226). -/
def execDisable (arg : Word) (s : State) : Result :=
  command s (contextPlain s.itd.trapPhase) (formatI arg) (needInstalledIrq s arg) fun s =>
    writeSlot s arg enAddr 0x00#32 id

/-- CLEAR (rule R227). -/
def execClear (arg : Word) (s : State) : Result :=
  command s (contextPlain s.itd.trapPhase) (formatI arg) (needInstalledIrq s arg) fun s =>
    writeSlot s arg pendAddr 0x00#32 id

/-- DISPATCH (rule R229): the handler the cause names, with the frame handle. It reads `cause` only (rule R230). -/
def execDispatch (arg : Word) (s : State) : Result :=
  command s (contextDispatch s.itd.trapPhase) true none fun s =>
    let h := decodeCause s.params s.itd.cause
    .next (({ s with
      itd := { s.itd with handlerSel := h.oneHot, handlerFrame := arg, trapPhase := .inHandler }
      trace := { s.trace with call := s.trace.call ++ [(h, arg)] } } : State).respond .ok 0#32)

/-- TRET (rule R231). -/
def execTret (arg : Word) (s : State) : Result :=
  command s (contextTret s.itd.trapPhase) (formatZ arg) none fun s => .next (s.leaveTrap.respond .ok 0#32)

end Sys2Proof.Machine
end

