-- ==== Sys2Proof/Machine/Sequencer.lean ====
section
/-! DEFINITION. The 29 micro-steps of the clock-tree sequence (42_clock_sequencer.md). Each names its successor; there is
no implicit next (10_state.md rule R25). A micro-step with a wait has two parts, its writes and the wait, during which the
sequencer holds at it (rule R171). -/

namespace Sys2Proof.Machine

/-- `seq_pc <- S_x` (00_scope.md rule R10). -/
def State.goto (s : State) (pc : SeqPc) : State := { s with seq := { s.seq with pc := pc } }

/-- `seq_state <- X`. -/
def State.enterState (s : State) (st : SeqState) : State := { s with seq := { s.seq with state := st } }

/-- S_SAFE (rule R173). -/
def execSSafe (s : State) : Result :=
  unlessHalted s fun s =>
    let s := s.ctWrite .rootSel 0
    .next { s with seq := { s.seq with coreFreq := s.params.fRcHz, state := .safeDefault, pc := .reach } }

/-- S_REACH (rule R174): a tap needs the crystal, the RC oscillator its absence. -/
def execSReach (s : State) : Result :=
  unlessHalted s fun s =>
    match s.params.sysclkEntry s.cfg.tgtSysclk with
    | none => .refused .sysclkSelNotKey
    | some e =>
      match s.cfg.xtal.valid, e.src with
      | false, .rc => .next { s with seq := { s.seq with tgtHz := e.hz, pc := .divcalc } }
      | true, .tap k => .next { s with seq := { s.seq with tgtHz := e.hz, tgtTap := k, pc := .xtalOn } }
      | _, _ => .next (s.fatal .sysclk)

/-- S_XTAL_ON (rule R175). -/
def execSXtalOn (s : State) : Result :=
  unlessHalted s fun s =>
    let s := (s.enterState .crystalPowering).ctWrite .xtalPu 1
    .next { s with seq := { s.seq with pollCnt := 0#8, pc := .pollWait } }

/-- S_POLL_WAIT (rule R176). -/
def execSPollWait (s : State) : Result :=
  unlessHalted s fun s => .next (s.heldFor s.params.xtalPollUs .pollRead id)

/-- Where a crystal-ready answer leads (rule R178): the ready test comes first. -/
def afterPoll (ready : Bool) (count max : BitVec 8) : SeqPc :=
  if ready then .pllLookup else if count = max then .timeout else .pollWait

/-- S_POLL_READ (rule R178). -/
def execSPollRead (s : State) : Result :=
  unlessHalted s fun s =>
    let count := s.seq.pollCnt + 1#8
    let read := s.ctReadXtalReady
    .next { read.2 with
      seq := { s.seq with pollCnt := count, pc := afterPoll read.1 count s.params.xtalPollMax } }

/-- S_TIMEOUT, `return Timeout` (rule R205, 60_exceptions.md rule R253). -/
def execSTimeout (s : State) : Result :=
  unlessHalted s fun s => .next (s.endSequence .xtalTimeout .timeout)

/-- S_PLL_LOOKUP (rule R179). -/
def execSPllLookup (s : State) : Result :=
  unlessHalted s fun s =>
    let s := s.enterState .pllConfiguring
    match s.params.pllEntry s.cfg.xtal.hz with
    | none => .next (s.fatal .xtalFreq)
    | some e => .next { s with seq := { s.seq with pllLatch := e.triple, pc := .pllFb } }

/-- S_PLL_FB (rule R180). -/
def execSPllFb (s : State) : Result :=
  unlessHalted s fun s => .next ((s.ctWrite .pllFb s.seq.pllLatch.fb.toNat).goto .pllCp)

/-- S_PLL_CP (rule R181). -/
def execSPllCp (s : State) : Result :=
  unlessHalted s fun s => .next ((s.ctWrite .pllCp s.seq.pllLatch.cp.toNat).goto .pllPd)

/-- S_PLL_PD (rule R182). -/
def execSPllPd (s : State) : Result :=
  unlessHalted s fun s => .next ((s.ctWrite .pllPd s.seq.pllLatch.pd.toNat).goto .puBias)

/-- S_PU_BIAS (rule R183). -/
def execSPuBias (s : State) : Result :=
  unlessHalted s fun s =>
    .next (s.heldFor s.params.tBiasUs .puCore fun s => (s.enterState .pllPoweringUp).ctWrite .pllBiasEn 1)

/-- S_PU_CORE (rule R184). -/
def execSPuCore (s : State) : Result :=
  unlessHalted s fun s => .next (s.heldFor s.params.tCoreUs .puCpdiv (·.ctWrite .pllCoreEn 1))

/-- S_PU_CPDIV (rule R185). -/
def execSPuCpdiv (s : State) : Result :=
  unlessHalted s fun s => .next (s.heldFor s.params.tCpdivUs .sdmSet (·.ctWrite .pllCpdivEn 1))

/-- S_SDM_SET (rule R186). -/
def execSSdmSet (s : State) : Result :=
  unlessHalted s fun s => .next (s.heldFor s.params.tSdmPulseUs .sdmClr (·.ctWrite .pllSdmRst 1))

/-- S_SDM_CLR (rule R187). -/
def execSSdmClr (s : State) : Result :=
  unlessHalted s fun s => .next (s.heldFor s.params.tSdmUs .fbdvSet (·.ctWrite .pllSdmRst 0))

/-- S_FBDV_SET (rule R188). -/
def execSFbdvSet (s : State) : Result :=
  unlessHalted s fun s => .next (s.heldFor s.params.tFbdvPulseUs .fbdvClr (·.ctWrite .pllFbdvRst 1))

/-- S_FBDV_CLR (rule R189). -/
def execSFbdvClr (s : State) : Result :=
  unlessHalted s fun s => .next (s.heldFor s.params.tFbdvUs .taps (·.ctWrite .pllFbdvRst 0))

/-- S_TAPS (rule R190): all `NTAPS` ones. -/
def execSTaps (s : State) : Result :=
  unlessHalted s fun s =>
    .next (((s.enterState .pllStabilizing).ctWrite .pllTapEn (2 ^ s.params.nTaps - 1)).goto .pllsel)

/-- S_PLLSEL (rule R191). -/
def execSPllsel (s : State) : Result :=
  unlessHalted s fun s => .next ((s.ctWrite .pllSelEn 1).goto .tapsel)

/-- S_TAPSEL (rule R192). -/
def execSTapsel (s : State) : Result :=
  unlessHalted s fun s => .next ((s.ctWrite .pllTapSel s.seq.tgtTap.toNat).goto .busdiv)

/-- The bus divisor (rule R193): the smallest `d` with `tgt_hz / d <= BCLK_MAX_HZ`, a ceiling division, exact. -/
def busDivisor (tgtHz bclkMaxHz : Hz) : Nat := (tgtHz.toNat + bclkMaxHz.toNat - 1) / bclkMaxHz.toNat

/-- S_BUSDIV (rule R193): `hclk_div` is written before the range check. -/
def execSBusdiv (s : State) : Result :=
  unlessHalted s fun s =>
    let s := s.ctWrite .hclkDiv 1
    let d := busDivisor s.seq.tgtHz s.params.bclkMaxHz
    if s.params.bclkDivMax < d then .next (s.fatal .field)
    else .next ((s.ctWrite .bclkDiv d).goto .icache)

/-- S_ICACHE (rule R194): strictly above the threshold, else nothing is written. -/
def execSIcache (s : State) : Result :=
  unlessHalted s fun s =>
    let s := if s.params.icacheWsThresholdHz < s.seq.tgtHz then s.ctWrite .icacheWs 1 else s
    .next (s.goto .switch)

/-- S_SWITCH (rule R195). -/
def execSSwitch (s : State) : Result :=
  unlessHalted s fun s => .next (((s.enterState .rootClockSwitched).ctWrite .rootSel 1).goto .shadow)

/-- S_SHADOW (rule R196): not a `CT.*` write, no trace entry. -/
def execSShadow (s : State) : Result :=
  unlessHalted s fun s => .next { s with seq := { s.seq with coreFreq := s.seq.tgtHz, pc := .settle } }

/-- S_SETTLE (rule R197). -/
def execSSettle (s : State) : Result :=
  unlessHalted s fun s => .next (s.heldFor s.params.tSettleUs .divcalc id)

/-- `divcheck(src, tgt, max)` (rule R198): the divisor and the resulting frequency; `none` is Err. -/
def divcheck (src : Hz) (tgt : OptFreq) (max : Nat) : Option (Nat × Hz) :=
  if tgt.valid then
    let d := src.toNat / tgt.hz.toNat
    if d * tgt.hz.toNat = src.toNat ∧ 1 ≤ d ∧ d ≤ max then some (d, tgt.hz) else none
  else some (1, src)

/-- S_DIVCALC (rule R199): both checks before either register, the UART first. -/
def execSDivcalc (s : State) : Result :=
  unlessHalted s fun s =>
    match divcheck s.seq.tgtHz s.cfg.tgtUart s.params.uartDivMax with
    | none => .next (s.fatal .uartDiv)
    | some u =>
      match divcheck s.seq.tgtHz s.cfg.tgtSpi s.params.spiDivMax with
      | none => .next (s.fatal .spiDiv)
      | some v =>
        .next { s with seq :=
          { s.seq with
            uartDivC := BitVec.ofNat 8 u.1, uartHzC := u.2, spiDivC := BitVec.ofNat 8 v.1, spiHzC := v.2,
            pc := .uartdiv } }

/-- S_UARTDIV (rule R200). -/
def execSUartdiv (s : State) : Result :=
  unlessHalted s fun s => .next ((s.ctWrite .uartDiv s.seq.uartDivC.toNat).goto .spidiv)

/-- S_SPIDIV (rule R201). -/
def execSSpidiv (s : State) : Result :=
  unlessHalted s fun s => .next ((s.ctWrite .spiDiv s.seq.spiDivC.toNat).goto .done)

/-- S_DONE (rule R204): the descriptor and the end of the sequence, one atomic step. -/
def execSDone (s : State) : Result :=
  unlessHalted s fun s =>
    let clocks : Clocks :=
      { valid := true, sysclkHz := s.seq.tgtHz, uartHz := s.seq.uartHzC, spiHz := s.seq.spiHzC,
        xtal := s.cfg.xtal, pllEn := s.cfg.xtal.valid }
    .next (({ s with clocks := clocks } : State).endSequence .frozen .ok)

end Sys2Proof.Machine
end

