-- ==== Sys2Proof/Machine/Dispatch.lean ====
section
/-! DEFINITION. One arm per constructor of Instr, each one direct call of its meaning. -/

namespace Sys2Proof.Machine

def exec (i : Instr) (s : State) : Host.Outcome State Fault Refusal :=
  match i with
  | .cfgSysclk arg => Sys2Proof.Machine.execCfgSysclk arg s
  | .cfgUart arg => Sys2Proof.Machine.execCfgUart arg s
  | .cfgSpi arg => Sys2Proof.Machine.execCfgSpi arg s
  | .cfgXtal arg => Sys2Proof.Machine.execCfgXtal arg s
  | .freeze arg => Sys2Proof.Machine.execFreeze arg s
  | .rdSysclk arg => Sys2Proof.Machine.execRdSysclk arg s
  | .rdUart arg => Sys2Proof.Machine.execRdUart arg s
  | .rdSpi arg => Sys2Proof.Machine.execRdSpi arg s
  | .rdPllen arg => Sys2Proof.Machine.execRdPllen arg s
  | .rdXtal arg => Sys2Proof.Machine.execRdXtal arg s
  | .install arg => Sys2Proof.Machine.execInstall arg s
  | .enable arg => Sys2Proof.Machine.execEnable arg s
  | .disable arg => Sys2Proof.Machine.execDisable arg s
  | .clear arg => Sys2Proof.Machine.execClear arg s
  | .dispatch arg => Sys2Proof.Machine.execDispatch arg s
  | .tret arg => Sys2Proof.Machine.execTret arg s
  | .now => Sys2Proof.Machine.execNow s
  | .elapsed since => Sys2Proof.Machine.execElapsed since s
  | .waitCycles n => Sys2Proof.Machine.execWaitCycles n s
  | .waitMicros us => Sys2Proof.Machine.execWaitMicros us s
  | .waitMillis ms => Sys2Proof.Machine.execWaitMillis ms s
  | .sSafe => Sys2Proof.Machine.execSSafe s
  | .sReach => Sys2Proof.Machine.execSReach s
  | .sXtalOn => Sys2Proof.Machine.execSXtalOn s
  | .sPollWait => Sys2Proof.Machine.execSPollWait s
  | .sPollRead => Sys2Proof.Machine.execSPollRead s
  | .sPllLookup => Sys2Proof.Machine.execSPllLookup s
  | .sPllFb => Sys2Proof.Machine.execSPllFb s
  | .sPllCp => Sys2Proof.Machine.execSPllCp s
  | .sPllPd => Sys2Proof.Machine.execSPllPd s
  | .sPuBias => Sys2Proof.Machine.execSPuBias s
  | .sPuCore => Sys2Proof.Machine.execSPuCore s
  | .sPuCpdiv => Sys2Proof.Machine.execSPuCpdiv s
  | .sSdmSet => Sys2Proof.Machine.execSSdmSet s
  | .sSdmClr => Sys2Proof.Machine.execSSdmClr s
  | .sFbdvSet => Sys2Proof.Machine.execSFbdvSet s
  | .sFbdvClr => Sys2Proof.Machine.execSFbdvClr s
  | .sTaps => Sys2Proof.Machine.execSTaps s
  | .sPllsel => Sys2Proof.Machine.execSPllsel s
  | .sTapsel => Sys2Proof.Machine.execSTapsel s
  | .sBusdiv => Sys2Proof.Machine.execSBusdiv s
  | .sIcache => Sys2Proof.Machine.execSIcache s
  | .sSwitch => Sys2Proof.Machine.execSSwitch s
  | .sShadow => Sys2Proof.Machine.execSShadow s
  | .sSettle => Sys2Proof.Machine.execSSettle s
  | .sDivcalc => Sys2Proof.Machine.execSDivcalc s
  | .sUartdiv => Sys2Proof.Machine.execSUartdiv s
  | .sSpidiv => Sys2Proof.Machine.execSSpidiv s
  | .sDone => Sys2Proof.Machine.execSDone s
  | .sTimeout => Sys2Proof.Machine.execSTimeout s

end Sys2Proof.Machine
end

