-- ==== Sys2Proof/Machine/Events.lean ====
section
/-! DEFINITION. What the environment does (30_encoding.md rule R114): TICK (40_delay_unit.md rule R130), the announced
crystal answers, IRQ_RAISE (60_exceptions.md rule R260), injected traps (rule R264), the full hardware reset
(70_reset_and_hazards.md rule R300). -/

namespace Sys2Proof.Machine

/-- IRQ_RAISE(n) (rule R260): the pending bit, whether or not the source is enabled; no trace entry. -/
def irqRaise (s : State) (n : Nat) : Result :=
  if n < s.params.nslot then .next (s.setLatch (pendAddr s.params n).toNat true) else .refused .eventNotAdmitted

/-- An injected interrupt cause needs `global_ie = 1` (rule R264). -/
def trapAdmitted (s : State) (v : Word) : Bool := !v.getLsbD 31 || s.itd.globalIe

/-- An injected trap, `!TRAP v` (rule R264). -/
def injectTrap (s : State) (v : Word) : Result :=
  if trapAdmitted s v then
    if s.itd.dispState = .uninstalled then .next (s.fatal .notInstalled)
    else if s.itd.trapPhase ≠ .idle then .next (s.fatal .nestedTrap)
    else .next (s.enterTrap v)
  else .refused .eventNotAdmitted

/-- The full hardware reset (rule R300): every state element to its reset value. The parameters and the outside world are
not state of the block; the counts of free values drawn go on (log 6). -/
def State.hardReset (s : State) : State := .powerUp s.params s.env

/-- An event of the environment, its entry of `sched` already used up. -/
def occur (e : Event) (s : State) : Result :=
  match e with
  | .tick => .next s.tick
  | .xtal b => .next { s with env := { s.env with xtalAnswers := s.env.xtalAnswers ++ [b] } }
  | .raise n => irqRaise s n
  | .trap v => injectTrap s v
  | .reset => .next s.hardReset
  | .cmd w => .next { s with port := { s.port with cmd := some w } }
  | .own => .next s

end Sys2Proof.Machine
end

