-- ==== Sys2Proof/Machine/Fetch.lean ====
section
/-! DEFINITION. Whose turn it is, and the word an agent of the block fetches. One agent acts at a time (20_memory.md rule
R83 (a)): the delay unit while a request stands, else the sequencer while `seq_pc` is not S_IDLE (42_clock_sequencer.md
rule R171), else the command in progress, else the trap unit where rule R263's condition holds, else none. -/

namespace Sys2Proof.Machine

/-- What happens next. -/
inductive Action where
  /-- The environment's event. -/
  | event (e : Event)
  /-- An agent of the block runs the word it fetched. -/
  | run (w : FetchWord)
  /-- The trap unit delivers an interrupt trap. -/
  | deliver
  /-- No agent of the block has a step. -/
  | wait
  deriving DecidableEq, Repr

/-- What the block's own agents do next. -/
def ownAction (s : State) : Action :=
  match s.du.req with
  | some w => .run (.delay w)
  | none =>
    if s.seq.pc = .idle then
      match s.port.cmd with
      | some w => .run (.command w)
      | none => if s.deliverable then .deliver else .wait
    else .run (.micro s.seq.pc.code)

/-- No command is in progress and the sequence is not running. -/
def State.quiet (s : State) : Bool :=
  s.du.req.isNone && s.seq.pc == .idle && !s.seq.busy && s.port.cmd.isNone

/-- The host has a step (rule R100, 60_exceptions.md rule R263): nothing is in progress and no trap waits for delivery. -/
def State.hostReady (s : State) : Bool := s.quiet && !s.deliverable

/-- What happens next, and the state with the schedule's entry used up. The host's next command waits while the host is
held, and an injected trap waits while a command or the sequence runs (rule R264); meanwhile the block goes on. A command
is presented and accepted in one step. -/
def nextAction (s : State) : Action × State :=
  match s.env.sched with
  | [] => (ownAction s, s)
  | .own :: rest => (ownAction s, { s with env := { s.env with sched := rest } })
  | .cmd w :: rest =>
    if s.hostReady then
      (.run (.command w), { s with env := { s.env with sched := rest }, port := { s.port with cmd := some w } })
    else (ownAction s, s)
  | .trap v :: rest =>
    if s.quiet then (.event (.trap v), { s with env := { s.env with sched := rest } }) else (ownAction s, s)
  | e :: rest => (.event e, { s with env := { s.env with sched := rest } })

end Sys2Proof.Machine
end

