-- ==== Sys2Proof/Machine/Run.lean ====
section
/-! DEFINITION. What a step does once it is known whose turn it is: decode the fetched word and run it. -/

namespace Sys2Proof.Machine

/-- A fetched word: decoded and run. A reserved opcode is the fatal F_ILLEGAL_CMD (30_encoding.md rule R107, check 2 of
rule R110); a word that never occurs on an internal port is refused (93_implementation_defined.md U37). -/
def runWord (w : FetchWord) (s : State) : Result :=
  match decode w with
  | .ok i => exec i s
  | .error (.reservedOpcode _) => .next (s.fatal .illegalCmd)
  | .error _ => .refused .neverOccurs

/-- The action, by its agent. The reset acts in every state; nothing else does in a halted block. -/
def act (a : Action) (s : State) : Result :=
  match a with
  | .event .reset => occur .reset s
  | .event e => unlessHalted s (occur e)
  | .run w => unlessHalted s (runWord w)
  | .deliver => unlessHalted s fun s => .next s.deliver
  | .wait => unlessHalted s .next

/-- The schedule with a turn of the block's own agents first. -/
def ownFirst : List Event → List Event
  | [] => []
  | e :: es => .own :: e :: es

/-- A word put where its agent fetches it, the agents served before it put to rest. -/
def place (f : FetchWord) (s : State) : State :=
  let s := { s with env := { s.env with sched := ownFirst s.env.sched } }
  match f with
  | .delay w => { s with du := { s.du with req := some w } }
  | .micro pc =>
    match SeqPc.ofCode pc with
    | some pc => { s with du := { s.du with req := none }, seq := { s.seq with pc := pc } }
    | none => s
  | .command w =>
    { s with
      du := { s.du with req := none }
      seq := { s.seq with pc := .idle }
      port := { s.port with cmd := some w } }

end Sys2Proof.Machine
end

