-- ==== Sys2Proof/Machine/Step.lean ====
section
/-! DEFINITION. One step of the machine, and the placing of an instruction where the step fetches its next one. -/

namespace Sys2Proof.Machine

/-- One step: a parameter set that breaks rule R6 or rule R7 is "refused by the model, not run"; the full hardware reset
always acts (70_reset_and_hazards.md rule R300); otherwise a halted block has no step (60_exceptions.md rule R250); else
what comes next happens. -/
def step (s : State) : Host.Outcome State Fault Refusal :=
  if s.params.ok then act (nextAction s).1 (nextAction s).2 else .refused .badParameters

/-- The instruction of a table row placed where its agent fetches it: a command on the command port, a request on the delay
unit's port, a micro-step in `seq_pc`; agents that would be served first are put to rest, and a pending event is put
behind a turn of the block. -/
def State.withFetchWord (s : State) (nbits w : Nat) : State :=
  match tableFetchWord nbits w with
  | some f => place f s
  | none => s

end Sys2Proof.Machine
end

