-- ==== Sys2Proof/Safety.lean ====
section
/-! DEFINITION. What the claims speak of: the invariants of the block, stated over one state. Each is meant for EVERY
state, not for runs from reset only; a claim says that every step keeps it. -/

namespace Sys2Proof.Machine

/-! ### The interrupt-controller space -/

/-- The cell list is canonical, and every listed cell is a slot that exists holding its one latch bit: bits 7 to 1 of a
slot "hold nothing" (20_memory.md rule R74). -/
def MemoryCanonical (s : State) : Prop :=
  Memory.wf s.mem = true ∧ ∀ c ∈ s.mem, isSlot s.params c.1 = true ∧ c.2 = 1#8

/-- Slot `n` belongs to one of the four recognized sources (43_interrupt_ops.md rule R221). -/
def recognizedSlot (p : Params) (n : Nat) : Prop := n ∈ p.irqNumbers

/-- The slots below `n` are disabled. -/
def enabledFrom (s : State) (n : Nat) : Prop := ∀ k, k < n → s.en k = false

/-- What the enable bits look like while INSTALL sweeps them and after it (60_exceptions.md rule R261): every slot already
swept is 0; after INSTALL only a recognized slot is ever enabled. -/
def EnableBitsOk (s : State) : Prop :=
  match s.itd.install with
  | some .vector => True
  | some (.enWord w) => w < s.params.bitmapWords ∧ enabledFrom s (4 * w)
  | some (.pendWord w) => w < s.params.bitmapWords ∧ enabledFrom s s.params.nslot
  | some .finish => enabledFrom s s.params.nslot
  | none => s.itd.dispState ≠ .uninstalled → ∀ n, n < s.params.nslot → s.en n = true → recognizedSlot s.params n

/-! ### The interrupt dispatcher -/

/-- The dispatcher's registers agree: `handler_sel` is one-hot exactly while a handler runs and zero otherwise
(10_state.md rule R51); a trap is in progress only after INSTALL; `global_ie` is 0 before INSTALL completes and 1 after
(rule R47); while INSTALL is in progress the dispatcher is still UNINSTALLED and no trap is in progress (43_interrupt_ops.md
rule R224). -/
def DispatcherOk (s : State) : Prop :=
  (s.itd.trapPhase = .inHandler → ∃ h : Handler, s.itd.handlerSel = h.oneHot)
    ∧ (s.itd.trapPhase ≠ .inHandler → s.itd.handlerSel = 0#5 ∧ s.itd.handlerFrame = 0#32)
    ∧ (s.itd.trapPhase ≠ .idle → s.itd.dispState ≠ .uninstalled)
    ∧ (s.itd.dispState = .uninstalled → s.itd.globalIe = false)
    ∧ (s.itd.dispState ≠ .uninstalled → s.itd.globalIe = true)
    ∧ (s.itd.install.isSome = true → s.itd.dispState = .uninstalled)

/-! ### The clock-tree sequence -/

/-- The duration a micro-step with a wait waits for, in microseconds (42_clock_sequencer.md rule R176, rule R183 to rule
R189, rule R197); `none` for a micro-step without a wait. -/
def waitOf (p : Params) : SeqPc → Option (BitVec 32)
  | .pollWait => some p.xtalPollUs
  | .puBias => some p.tBiasUs
  | .puCore => some p.tCoreUs
  | .puCpdiv => some p.tCpdivUs
  | .sdmSet => some p.tSdmPulseUs
  | .sdmClr => some p.tSdmUs
  | .fbdvSet => some p.tFbdvPulseUs
  | .fbdvClr => some p.tFbdvUs
  | .settle => some p.tSettleUs
  | _ => none

/-- The wait in progress is the one of the micro-step the sequencer holds at, and none is in progress at a micro-step
without a wait (rule R171): a standing request is WAIT_MICROS of that duration; the count waited for is its cycles at the
recorded frequency (40_delay_unit.md rule R134). -/
def WaitOk (s : State) : Prop :=
  match waitOf s.params s.seq.pc with
  | none => s.du.req = none ∧ s.du.done = false ∧ s.du.waiting = false
  | some us =>
    (s.du.req = none ∨ s.du.req = some (duWord 3#3 (us.setWidth 64)))
      ∧ (s.du.req.isSome = true → s.du.done = false)
      ∧ (s.du.waiting = true → s.du.req.isSome = true ∧ s.du.waitN = microsToCycles us s.seq.coreFreq)

/-- The writes of the micro-step the sequencer holds at have been made: its request stands or its wait is over. -/
def State.written (s : State) : Bool := s.du.req.isSome || s.du.done

/-- `seq_state` at each micro-step (10_state.md rule R23, rule R203; 92_eei_decisions.md D12). -/
def StateAt (s : State) : Prop :=
  match s.seq.pc with
  | .idle => s.seq.state = .unconfigured ∨ s.seq.state = .frozen ∨ s.seq.state = .xtalTimeout
  | .safe => s.seq.state = .unconfigured ∨ s.seq.state = .xtalTimeout
  | .reach | .xtalOn => s.seq.state = .safeDefault
  | .pollWait | .pollRead | .pllLookup | .timeout => s.seq.state = .crystalPowering
  | .pllFb | .pllCp | .pllPd => s.seq.state = .pllConfiguring
  | .puBias => s.seq.state = if s.written then .pllPoweringUp else .pllConfiguring
  | .puCore | .puCpdiv | .sdmSet | .sdmClr | .fbdvSet | .fbdvClr | .taps => s.seq.state = .pllPoweringUp
  | .pllsel | .tapsel | .busdiv | .icache | .switch => s.seq.state = .pllStabilizing
  | .shadow | .settle => s.seq.state = .rootClockSwitched
  | .divcalc | .uartdiv | .spidiv | .done =>
    s.seq.state = if s.cfg.xtal.valid then .rootClockSwitched else .safeDefault

/-- `k` rounds of the polling loop answered 0 (rule R177): each a spacing and a read. -/
def pollRounds (p : Params) : Nat → List ClkEvent
  | 0 => []
  | k + 1 => pollRounds p k ++ [.d (microsToCycles p.xtalPollUs p.fRcHz), .r false]

/-- The cycles of a wait before the switch, `c(t)` of rule R206 (e). -/
def rcWait (p : Params) (us : BitVec 32) : ClkEvent := .d (microsToCycles us p.fRcHz)

/-- The trace up to the end of the crystal's power-up write. -/
def traceXtalOn : List ClkEvent := [.w .rootSel 0, .w .xtalPu 1]

/-- The trace up to a crystal found ready at attempt `k` (rule R206 (e)). -/
def traceReady (p : Params) (k : Nat) : List ClkEvent :=
  traceXtalOn ++ pollRounds p (k - 1) ++ [rcWait p p.xtalPollUs, .r true]

/-- The three parameter writes (rule R180 to rule R182). -/
def tracePll (t : PllTriple) : List ClkEvent :=
  [.w .pllFb t.fb.toNat, .w .pllCp t.cp.toNat, .w .pllPd t.pd.toNat]

/-- The power-up bit sequence with its waits (rule R183 to rule R189). -/
def tracePowerUp (p : Params) : List ClkEvent :=
  [.w .pllBiasEn 1, rcWait p p.tBiasUs, .w .pllCoreEn 1, rcWait p p.tCoreUs, .w .pllCpdivEn 1, rcWait p p.tCpdivUs,
   .w .pllSdmRst 1, rcWait p p.tSdmPulseUs, .w .pllSdmRst 0, rcWait p p.tSdmUs,
   .w .pllFbdvRst 1, rcWait p p.tFbdvPulseUs, .w .pllFbdvRst 0, rcWait p p.tFbdvUs]

/-- Taps, select, tap choice and bus dividers (rule R190 to rule R193). -/
def traceTaps (p : Params) (tap : BitVec 3) (tgtHz : Hz) : List ClkEvent :=
  [.w .pllTapEn (2 ^ p.nTaps - 1), .w .pllSelEn 1, .w .pllTapSel tap.toNat, .w .hclkDiv 1,
   .w .bclkDiv (busDivisor tgtHz p.bclkMaxHz)]

/-- The wait-state write, only above the threshold (rule R194). -/
def traceIcache (p : Params) (tgtHz : Hz) : List ClkEvent :=
  if p.icacheWsThresholdHz < tgtHz then [.w .icacheWs 1] else []

/-- The PLL path's trace up to the start of the power-up sequence. -/
def traceConfigured (s : State) : List ClkEvent :=
  traceReady s.params s.seq.pollCnt.toNat ++ tracePll s.seq.pllLatch

/-- The PLL path's trace up to the switch. -/
def traceStable (s : State) : List ClkEvent :=
  traceConfigured s ++ tracePowerUp s.params ++ traceTaps s.params s.seq.tgtTap s.seq.tgtHz
    ++ traceIcache s.params s.seq.tgtHz

/-- The trace up to the divider tail, by path: rule R206 (e) on the PLL path, rule R206 (f) on the RC path. -/
def traceTail (s : State) : List ClkEvent :=
  if s.cfg.xtal.valid then
    traceStable s ++ [.w .rootSel 1, .d (microsToCycles s.params.tSettleUs s.seq.tgtHz)]
  else [.w .rootSel 0]

/-- The part of a micro-step's own writes and wait made so far. -/
def State.partDone (s : State) (writes : List ClkEvent) (us : BitVec 32) : List ClkEvent :=
  if s.du.done then writes ++ [.d (microsToCycles us s.seq.coreFreq)]
  else if s.du.req.isSome then writes else []

/-- The entries the sequence in progress has made in `clk_trace`, in order: rule R206 (e) and (f) cut at the present
micro-step. -/
def State.sequenceTrace (s : State) : List ClkEvent :=
  match s.seq.pc with
  | .idle | .safe => []
  | .reach | .xtalOn => [.w .rootSel 0]
  | .pollWait =>
    traceXtalOn ++ pollRounds s.params s.seq.pollCnt.toNat ++ s.partDone [] s.params.xtalPollUs
  | .pollRead => traceXtalOn ++ pollRounds s.params s.seq.pollCnt.toNat ++ [rcWait s.params s.params.xtalPollUs]
  | .timeout => traceXtalOn ++ pollRounds s.params s.seq.pollCnt.toNat
  | .pllLookup | .pllFb => traceReady s.params s.seq.pollCnt.toNat
  | .pllCp => traceReady s.params s.seq.pollCnt.toNat ++ (tracePll s.seq.pllLatch).take 1
  | .pllPd => traceReady s.params s.seq.pollCnt.toNat ++ (tracePll s.seq.pllLatch).take 2
  | .puBias => traceConfigured s ++ s.partDone [.w .pllBiasEn 1] s.params.tBiasUs
  | .puCore =>
    traceConfigured s ++ (tracePowerUp s.params).take 2 ++ s.partDone [.w .pllCoreEn 1] s.params.tCoreUs
  | .puCpdiv =>
    traceConfigured s ++ (tracePowerUp s.params).take 4 ++ s.partDone [.w .pllCpdivEn 1] s.params.tCpdivUs
  | .sdmSet =>
    traceConfigured s ++ (tracePowerUp s.params).take 6 ++ s.partDone [.w .pllSdmRst 1] s.params.tSdmPulseUs
  | .sdmClr =>
    traceConfigured s ++ (tracePowerUp s.params).take 8 ++ s.partDone [.w .pllSdmRst 0] s.params.tSdmUs
  | .fbdvSet =>
    traceConfigured s ++ (tracePowerUp s.params).take 10 ++ s.partDone [.w .pllFbdvRst 1] s.params.tFbdvPulseUs
  | .fbdvClr =>
    traceConfigured s ++ (tracePowerUp s.params).take 12 ++ s.partDone [.w .pllFbdvRst 0] s.params.tFbdvUs
  | .taps => traceConfigured s ++ tracePowerUp s.params
  | .pllsel =>
    traceConfigured s ++ tracePowerUp s.params ++ (traceTaps s.params s.seq.tgtTap s.seq.tgtHz).take 1
  | .tapsel =>
    traceConfigured s ++ tracePowerUp s.params ++ (traceTaps s.params s.seq.tgtTap s.seq.tgtHz).take 2
  | .busdiv =>
    traceConfigured s ++ tracePowerUp s.params ++ (traceTaps s.params s.seq.tgtTap s.seq.tgtHz).take 3
  | .icache => traceConfigured s ++ tracePowerUp s.params ++ traceTaps s.params s.seq.tgtTap s.seq.tgtHz
  | .switch => traceStable s
  | .shadow => traceStable s ++ [.w .rootSel 1]
  | .settle => traceStable s ++ [.w .rootSel 1] ++ s.partDone [] s.params.tSettleUs
  | .divcalc | .uartdiv => traceTail s
  | .spidiv => traceTail s ++ [.w .uartDiv s.seq.uartDivC.toNat]
  | .done => traceTail s ++ [.w .uartDiv s.seq.uartDivC.toNat, .w .spiDiv s.seq.spiDivC.toNat]

/-- The micro-steps after the target is known. -/
def SeqPc.targetKnown : SeqPc → Bool
  | .idle | .safe | .reach => false
  | _ => true

/-- The micro-steps of the PLL path only. -/
def SeqPc.pllOnly : SeqPc → Bool
  | .idle | .safe | .reach | .divcalc | .uartdiv | .spidiv | .done => false
  | _ => true

/-- The micro-steps at which the PLL parameters have been looked up, on the PLL path. -/
def SeqPc.lookedUp : SeqPc → Bool
  | .idle | .safe | .reach | .xtalOn | .pollWait | .pollRead | .timeout | .pllLookup => false
  | _ => true

/-- The micro-steps at which the root clock is still the RC oscillator on the PLL path. -/
def SeqPc.beforeSwitch : SeqPc → Bool
  | .idle | .safe | .shadow | .settle | .divcalc | .uartdiv | .spidiv | .done => false
  | _ => true

/-- The micro-steps at which the dividers have been computed. -/
def SeqPc.divided : SeqPc → Bool
  | .uartdiv | .spidiv | .done => true
  | _ => false

/-- The values a sequence in progress works with are the ones its rules give it: the selected entry of `SYSCLK_TABLE` fits
the crystal setting (rule R174), the latched triple is `PLL_TABLE`'s (rule R179), `core_freq` and `CT.root_sel` are those
of the clock now selected (70_reset_and_hazards.md rule R320, rule R317), the divisors are exact and in range (rule R198,
rule R199). -/
def ValuesOk (s : State) : Prop :=
  (s.seq.pc.targetKnown = true → ∃ e, s.params.sysclkEntry s.cfg.tgtSysclk = some e ∧ s.seq.tgtHz = e.hz
      ∧ (s.cfg.xtal.valid = true → e.src = .tap s.seq.tgtTap) ∧ (s.cfg.xtal.valid = false → e.src = .rc))
    ∧ (s.seq.pc.pllOnly = true → s.cfg.xtal.valid = true)
    ∧ (s.cfg.xtal.valid = true → s.seq.pc.lookedUp = true →
        ∃ e, s.params.pllEntry s.cfg.xtal.hz = some e ∧ s.seq.pllLatch = e.triple)
    ∧ (s.seq.pc.beforeSwitch = true → s.seq.coreFreq = s.params.fRcHz ∧ s.ct.rootSel = 0#1)
    ∧ (s.seq.pc = .shadow → s.ct.rootSel = 1#1)
    ∧ (s.seq.pc = .settle → s.seq.coreFreq = s.seq.tgtHz ∧ s.ct.rootSel = 1#1)
    ∧ (s.seq.pc = .divcalc ∨ s.seq.pc.divided = true →
        s.seq.coreFreq = s.seq.tgtHz ∧ s.ct.rootSel = if s.cfg.xtal.valid then 1#1 else 0#1)
    ∧ (s.seq.pc.divided = true →
        divcheck s.seq.tgtHz s.cfg.tgtUart s.params.uartDivMax = some (s.seq.uartDivC.toNat, s.seq.uartHzC)
          ∧ divcheck s.seq.tgtHz s.cfg.tgtSpi s.params.spiDivMax = some (s.seq.spiDivC.toNat, s.seq.spiHzC))
    ∧ (s.seq.pc = .spidiv ∨ s.seq.pc = .done → s.ct.uartDiv = s.seq.uartDivC)
    ∧ (s.seq.pc = .done → s.ct.spiDiv = s.seq.spiDivC)

/-- The poll counter's range at each micro-step of the loop (10_state.md rule R29, rule R177). -/
def PollOk (s : State) : Prop :=
  match s.seq.pc with
  | .pollWait | .pollRead => s.seq.pollCnt.toNat < s.params.xtalPollMax.toNat
  | .timeout => s.seq.pollCnt = s.params.xtalPollMax
  | .idle | .safe | .reach | .xtalOn => True
  | _ => s.cfg.xtal.valid = true → 1 ≤ s.seq.pollCnt.toNat ∧ s.seq.pollCnt.toNat ≤ s.params.xtalPollMax.toNat

/-- The clock half of a block that has not halted: `seq_busy` says whether the sequence runs (10_state.md rule R28), the
descriptor exists exactly in FROZEN (rule R32), the selected system clock is a key (rule R20), and the sequence in
progress is where its rules put it, with the trace its rules give it. -/
def SequenceOk (s : State) : Prop :=
  s.port.halted = false →
    (s.seq.busy = true ↔ s.seq.pc ≠ .idle)
      ∧ (s.clocks.valid = true ↔ s.seq.state = .frozen)
      ∧ (s.params.sysclkEntry s.cfg.tgtSysclk).isSome = true
      ∧ StateAt s ∧ WaitOk s ∧ ValuesOk s ∧ PollOk s
      ∧ ∃ before, s.trace.clk = before ++ s.sequenceTrace

/-- The descriptor describes the hardware "as actually programmed" (rule R204): the root clock it names is the one
selected, and each peripheral frequency is the system frequency divided by the divisor in its register, exactly. -/
def DescriptorTrue (s : State) : Prop :=
  s.clocks.valid = true →
    s.ct.rootSel = (if s.clocks.pllEn then 1#1 else 0#1)
      ∧ s.ct.uartDiv.toNat * s.clocks.uartHz.toNat = s.clocks.sysclkHz.toNat
      ∧ s.ct.spiDiv.toNat * s.clocks.spiHz.toNat = s.clocks.sysclkHz.toNat
      ∧ s.clocks.pllEn = s.clocks.xtal.valid

/-- A configuration register that holds no frequency holds 0 (10_state.md rule R20). -/
def BuilderOk (s : State) : Prop :=
  (s.cfg.tgtUart.valid = false → s.cfg.tgtUart.hz = 0#32)
    ∧ (s.cfg.tgtSpi.valid = false → s.cfg.tgtSpi.hz = 0#32)
    ∧ (s.cfg.xtal.valid = false → s.cfg.xtal.hz = 0#32)
    ∧ (s.cfg.tgtUart.valid = true → s.cfg.tgtUart.hz ≠ 0#32)
    ∧ (s.cfg.tgtSpi.valid = true → s.cfg.tgtSpi.hz ≠ 0#32)
    ∧ (s.cfg.xtal.valid = true → s.cfg.xtal.hz ≠ 0#32)

/-! ### Whose instruction it is, and whose turn -/

/-- The four sources of an instruction: the clock half's commands, the interrupt half's commands, the delay unit's requests,
the sequencer's micro-steps (00_scope.md rule R1). -/
inductive Agent where
  | clockCommand
  | dispatcherCommand
  | delayUnit
  | sequencer
  deriving DecidableEq, Repr

/-- The agent an instruction belongs to. -/
def agentOf : Instr → Agent
  | .cfgSysclk _ | .cfgUart _ | .cfgSpi _ | .cfgXtal _ | .freeze _ | .rdSysclk _ | .rdUart _ | .rdSpi _ | .rdPllen _
  | .rdXtal _ => .clockCommand
  | .install _ | .enable _ | .disable _ | .clear _ | .dispatch _ | .tret _ => .dispatcherCommand
  | .now | .elapsed _ | .waitCycles _ | .waitMicros _ | .waitMillis _ => .delayUnit
  | .sSafe | .sReach | .sXtalOn | .sPollWait | .sPollRead | .sPllLookup | .sPllFb | .sPllCp | .sPllPd | .sPuBias
  | .sPuCore | .sPuCpdiv | .sSdmSet | .sSdmClr | .sFbdvSet | .sFbdvClr | .sTaps | .sPllsel | .sTapsel | .sBusdiv
  | .sIcache | .sSwitch | .sShadow | .sSettle | .sDivcalc | .sUartdiv | .sSpidiv | .sDone | .sTimeout => .sequencer

/-- The block's own agents have the next turn (turns are entries of the schedule: the model's choice, log 5), and `s1` is the state with the schedule's entry for it, if any, used up: the
schedule is empty, or gives the block a turn, or holds a command or a trap that must wait. -/
def ownTurn (s s1 : State) : Prop :=
  (s.env.sched = [] ∧ s1 = s)
    ∨ (∃ rest, s.env.sched = .own :: rest ∧ s1 = { s with env := { s.env with sched := rest } })
    ∨ (∃ w rest, s.env.sched = .cmd w :: rest ∧ s.hostReady = false ∧ s1 = s)
    ∨ (∃ v rest, s.env.sched = .trap v :: rest ∧ s.quiet = false ∧ s1 = s)

/-! ### Shapes that several statements share -/

/-- The state a fatal leaves (60_exceptions.md rule R250): halted, the code, the response, and nothing else. That the word
on the port is withdrawn with the response is the model's choice, log 11. -/
def fatalState (s : State) (c : FaultCode) : State :=
  { s with port :=
      { cmd := none, rspStatus := .fatal, rspData := c.code.setWidth 32, halted := true, faultCode := c } }

/-- The instruction raises the fatal `c` and does nothing else. -/
def Raises (i : Instr) (s : State) (c : FaultCode) : Prop := exec i s = .next (fatalState s c)

/-- The port after a command that completes with `(OK, data)` (30_encoding.md rule R104). That the word on the port is
withdrawn with the response is the model's choice, log 11. -/
def okPort (s : State) (data : Word) : Port := { s.port with rspStatus := .ok, rspData := data, cmd := none }

/-- A micro-step with a wait (42_clock_sequencer.md rule R171): its writes, then the request of `us` microseconds; it holds
while the request stands; when the wait is over `seq_pc` moves to `succ`. The request on the port, the turns on which it
holds and the completion signal are the model's choice, log 9. -/
def HeldMicroStep (i : Instr) (us : Params → BitVec 32) (succ : SeqPc) (writes : State → State) : Prop :=
  ∀ s : State, s.port.halted = false →
    (s.du.done = false → s.du.req = none →
      exec i s = .next { writes s with du := { s.du with req := some (duWord 3#3 ((us s.params).setWidth 64)) } })
    ∧ (s.du.done = false → s.du.req.isSome = true → exec i s = .next s)
    ∧ (s.du.done = true →
      exec i s = .next { s with du := { s.du with done := false }, seq := { s.seq with pc := succ } })

/-- A wait of `n s` cycles (40_delay_unit.md rule R133): the first evaluation of the test is made as the wait begins; a wait
of 0 cycles is over at once; a later evaluation ends the wait exactly when the elapsed count has reached the count waited
for, and else changes nothing. One evaluation a turn, the bit that a wait is in progress, the completion signal and the
withdrawn request are the model's choice, log 9. -/
def WaitBehaviour (run : State → Result) (n : State → Cycles) : Prop :=
  ∀ s : State, s.port.halted = false →
    (s.du.waiting = false → n s ≠ 0#64 →
      run s = .next { s with du := { s.du with waitStart := s.du.cyc, waitN := n s, waiting := true } })
    ∧ (s.du.waiting = false → n s = 0#64 →
      run s = .next { s with
        du := { s.du with waitStart := s.du.cyc, waitN := 0#64, waiting := false, done := true, req := none }
        trace := { s.trace with clk := s.trace.clk ++ [.d 0#64] } })
    ∧ (s.du.waiting = true → (s.du.cyc - s.du.waitStart).toNat < s.du.waitN.toNat → run s = .next s)
    ∧ (s.du.waiting = true → s.du.waitN.toNat ≤ (s.du.cyc - s.du.waitStart).toNat →
      run s = .next { s with
        du := { s.du with waiting := false, done := true, req := none }
        trace := { s.trace with clk := s.trace.clk ++ [.d s.du.waitN] } })

/-- An accepted slot write: the byte at `addr` of the identity's IRQ number becomes `b`, every other byte of memory reads
as before, the write is in `mem_trace` with the value `v`, the dispatcher's state becomes `ds`, the response is `(OK, 0)`,
nothing else changes. -/
def WritesSlot (i : Instr) (s : State) (addr : Addr) (b : Byte) (v : Word) (ds : DispState) : Prop :=
  ∃ t : State, exec i s = .next t ∧ Memory.read t.mem addr.toNat = b
    ∧ (∀ x, x ≠ addr.toNat → Memory.read t.mem x = Memory.read s.mem x)
    ∧ t = { s with
        mem := t.mem
        itd := { s.itd with dispState := ds }
        port := okPort s 0#32
        trace := { s.trace with mem := s.trace.mem ++ [⟨addr, 1, v⟩] } }

/-- A word of an INSTALL sweep at `addr`: its four bytes become 0, every other byte of memory reads as before, the write is
in `mem_trace`, the next micro-step is `nx`, nothing else changes. One word a turn is the model's choice, log 10. -/
def ClearsWord (i : Instr) (s : State) (addr : Addr) (nx : InstallStep) : Prop :=
  ∃ t : State, exec i s = .next t ∧ (∀ k, k < 4 → Memory.read t.mem (addr.toNat + k) = 0#8)
    ∧ (∀ x, x < addr.toNat ∨ addr.toNat + 4 ≤ x → Memory.read t.mem x = Memory.read s.mem x)
    ∧ t = { s with
        mem := t.mem
        itd := { s.itd with install := some nx }
        trace := { s.trace with mem := s.trace.mem ++ [⟨addr, 4, 0#32⟩] } }

/-- The `k` bytes from `a` on lie inside one of the two regions (20_memory.md rule R74). -/
def insideRegion (p : Params) (a k : Nat) : Prop :=
  (p.enBase ≤ a ∧ a + k ≤ p.enBase + p.nslot) ∨ (p.pendBase ≤ a ∧ a + k ≤ p.pendBase + p.nslot)

/-! ### Who writes what: the change from `s` to `t` made by running `i` -/

/-- The four configuration registers (10_state.md rule R20, 41_clock_config.md rule R150 to rule R154): each its own
CFG command, and the two ends of a sequence, which make the builder fresh. -/
def BuilderWriters (i : Instr) (s t : State) : Prop :=
  (t.cfg.tgtSysclk ≠ s.cfg.tgtSysclk → (∃ a, i = .cfgSysclk a) ∨ i ∈ [.sDone, .sTimeout])
    ∧ (t.cfg.tgtUart ≠ s.cfg.tgtUart → (∃ hz, i = .cfgUart hz) ∨ i ∈ [.sDone, .sTimeout])
    ∧ (t.cfg.tgtSpi ≠ s.cfg.tgtSpi → (∃ hz, i = .cfgSpi hz) ∨ i ∈ [.sDone, .sTimeout])
    ∧ (t.cfg.xtal ≠ s.cfg.xtal → (∃ hz, i = .cfgXtal hz) ∨ i ∈ [.sDone, .sTimeout])

/-- The sequencer's registers (10_state.md rule R23, rule R25, rule R28, rule R29, rule R33, rule R46). -/
def SequencerWriters (i : Instr) (s t : State) : Prop :=
  (t.seq.state ≠ s.seq.state →
      i ∈ [.sSafe, .sXtalOn, .sPllLookup, .sPuBias, .sTaps, .sSwitch, .sDone, .sTimeout])
    ∧ (t.seq.pc ≠ s.seq.pc → (∃ a, i = .freeze a) ∨ agentOf i = .sequencer)
    ∧ (t.seq.busy ≠ s.seq.busy → (∃ a, i = .freeze a) ∨ i ∈ [.sDone, .sTimeout])
    ∧ (t.seq.pollCnt ≠ s.seq.pollCnt → i ∈ [.sXtalOn, .sPollRead])
    ∧ (t.seq.coreFreq ≠ s.seq.coreFreq → i ∈ [.sSafe, .sShadow])
    ∧ (t.seq.pllLatch ≠ s.seq.pllLatch → i = .sPllLookup)
    ∧ (t.seq.tgtHz ≠ s.seq.tgtHz ∨ t.seq.tgtTap ≠ s.seq.tgtTap → i = .sReach)
    ∧ (t.seq.uartDivC ≠ s.seq.uartDivC ∨ t.seq.spiDivC ≠ s.seq.spiDivC ∨ t.seq.uartHzC ≠ s.seq.uartHzC
        ∨ t.seq.spiHzC ≠ s.seq.spiHzC → i = .sDivcalc)

/-- The clock-tree outputs and the descriptor (10_state.md rule R32, rule R36 to rule R43). -/
def ClockTreeWriters (i : Instr) (s t : State) : Prop :=
  (t.ct.rootSel ≠ s.ct.rootSel → i ∈ [.sSafe, .sSwitch])
    ∧ (t.ct.xtalPu ≠ s.ct.xtalPu → i = .sXtalOn)
    ∧ (t.ct.pllFb ≠ s.ct.pllFb → i = .sPllFb)
    ∧ (t.ct.pllCp ≠ s.ct.pllCp → i = .sPllCp)
    ∧ (t.ct.pllPd ≠ s.ct.pllPd → i = .sPllPd)
    ∧ (t.ct.pllBiasEn ≠ s.ct.pllBiasEn → i = .sPuBias)
    ∧ (t.ct.pllCoreEn ≠ s.ct.pllCoreEn → i = .sPuCore)
    ∧ (t.ct.pllCpdivEn ≠ s.ct.pllCpdivEn → i = .sPuCpdiv)
    ∧ (t.ct.pllSdmRst ≠ s.ct.pllSdmRst → i ∈ [.sSdmSet, .sSdmClr])
    ∧ (t.ct.pllFbdvRst ≠ s.ct.pllFbdvRst → i ∈ [.sFbdvSet, .sFbdvClr])
    ∧ (t.ct.pllTapEn ≠ s.ct.pllTapEn → i = .sTaps)
    ∧ (t.ct.pllSelEn ≠ s.ct.pllSelEn → i = .sPllsel)
    ∧ (t.ct.pllTapSel ≠ s.ct.pllTapSel → i = .sTapsel)
    ∧ (t.ct.hclkDiv ≠ s.ct.hclkDiv ∨ t.ct.bclkDiv ≠ s.ct.bclkDiv → i = .sBusdiv)
    ∧ (t.ct.icacheWs ≠ s.ct.icacheWs → i = .sIcache)
    ∧ (t.ct.uartDiv ≠ s.ct.uartDiv → i = .sUartdiv)
    ∧ (t.ct.spiDiv ≠ s.ct.spiDiv → i = .sSpidiv)
    ∧ (t.clocks ≠ s.clocks → i = .sDone)

/-- The dispatcher's registers (10_state.md rule R26, rule R27, rule R47 to rule R49, rule R51, rule R52): no instruction
writes `cause` or `trap_pc`, which only the taking of a trap does. -/
def DispatcherWriters (i : Instr) (s t : State) : Prop :=
  (t.itd.dispState ≠ s.itd.dispState → (∃ stub, i = .install stub) ∨ ∃ id, i = .enable id)
    ∧ (t.itd.trapPhase ≠ s.itd.trapPhase → (∃ frame, i = .dispatch frame) ∨ ∃ a, i = .tret a)
    ∧ (t.itd.handlerSel ≠ s.itd.handlerSel ∨ t.itd.handlerFrame ≠ s.itd.handlerFrame →
        (∃ frame, i = .dispatch frame) ∨ ∃ a, i = .tret a)
    ∧ (t.itd.globalIe ≠ s.itd.globalIe ∨ t.itd.tvec ≠ s.itd.tvec ∨ t.itd.install ≠ s.itd.install →
        ∃ stub, i = .install stub)
    ∧ t.itd.cause = s.itd.cause ∧ t.itd.trapPc = s.itd.trapPc

/-- The latch bits (10_state.md rule R50): an enable bit is set by ENABLE and cleared by DISABLE and INSTALL; a pending
bit is set by no instruction and cleared by CLEAR and INSTALL. -/
def LatchWriters (i : Instr) (s t : State) : Prop :=
  ∀ n, n < s.params.nslot →
    (s.en n = false → t.en n = true → ∃ id, i = .enable id)
      ∧ (s.en n = true → t.en n = false → (∃ id, i = .disable id) ∨ ∃ stub, i = .install stub)
      ∧ (s.pend n = false → t.pend n = false)
      ∧ (s.pend n = true → t.pend n = false → (∃ id, i = .clear id) ∨ ∃ stub, i = .install stub)

/-- The response port, the halt latch, the delay unit's registers and the traces (10_state.md rule R30, rule R34, rule R44,
rule R45, rule R53): the response is driven by a command that completes, by an end of a sequence or by a fatal. -/
def OutputWriters (i : Instr) (s t : State) : Prop :=
  (t.port.rspStatus ≠ s.port.rspStatus ∨ t.port.rspData ≠ s.port.rspData →
      agentOf i ∈ [.clockCommand, .dispatcherCommand] ∨ i ∈ [.sDone, .sTimeout] ∨ t.port.halted = true)
    ∧ (t.port.halted ≠ s.port.halted ∨ t.port.faultCode ≠ s.port.faultCode → ∃ c, t.port = (fatalState s c).port)
    ∧ (t.du.waitStart ≠ s.du.waitStart ∨ t.du.waitN ≠ s.du.waitN →
        (∃ n, i = .waitCycles n) ∨ (∃ us, i = .waitMicros us) ∨ ∃ ms, i = .waitMillis ms)
    ∧ t.du.cyc = s.du.cyc
    ∧ (t.trace.clk ≠ s.trace.clk → agentOf i ∈ [.sequencer, .delayUnit])
    ∧ (t.trace.mem ≠ s.trace.mem →
        (∃ stub, i = .install stub) ∨ (∃ id, i = .enable id) ∨ (∃ id, i = .disable id) ∨ ∃ id, i = .clear id)
    ∧ (t.trace.call ≠ s.trace.call → ∃ frame, i = .dispatch frame)

end Sys2Proof.Machine
end

