-- ==== Sys2Proof/Certificates/Slice0/Obligations.lean ====
section
/-! DEFINITION. The statements for the provers. -/

open Sys2Proof Sys2Proof.Machine

/-- In a block that has not halted, CFG_SYSCLK raises F_BAD_CONTEXT in TRAPPED, then F_FIELD if bits 31:8 of the operand
are not 0 or the code is no key of SYSCLK_TABLE, then F_CONSUMED without the token; else it writes tgt_sysclk,
responds (OK, 0) and changes nothing else. (rule R151.) -/
def Obligations.CfgSysclk : Prop :=
  ∀ (s : State) (arg : Word), s.port.halted = false →
    (s.itd.trapPhase = .trapped → Raises (.cfgSysclk arg) s .badContext)
    ∧ (s.itd.trapPhase ≠ .trapped →
        ¬ (arg.extractLsb' 8 24 = 0#24 ∧ (s.params.sysclkEntry (arg.extractLsb' 0 8)).isSome = true) →
        Raises (.cfgSysclk arg) s .field)
    ∧ (s.itd.trapPhase ≠ .trapped → arg.extractLsb' 8 24 = 0#24 →
        (s.params.sysclkEntry (arg.extractLsb' 0 8)).isSome = true →
        s.seq.state ≠ .unconfigured → s.seq.state ≠ .xtalTimeout → Raises (.cfgSysclk arg) s .consumed)
    ∧ (s.itd.trapPhase ≠ .trapped → arg.extractLsb' 8 24 = 0#24 →
        (s.params.sysclkEntry (arg.extractLsb' 0 8)).isSome = true →
        s.seq.state = .unconfigured ∨ s.seq.state = .xtalTimeout →
        exec (.cfgSysclk arg) s = .next { s with
          cfg := { s.cfg with tgtSysclk := arg.extractLsb' 0 8 }
          port := okPort s 0#32 })

/-- In a block that has not halted, each of CFG_UART, CFG_SPI, CFG_XTAL raises F_BAD_CONTEXT in TRAPPED, then F_FIELD
for the frequency 0, then F_CONSUMED without the token; else it makes its own register present with the operand,
responds (OK, 0) and changes nothing else. (rule R152, rule R153, rule R154.) -/
def Obligations.CfgFrequencies : Prop :=
  ∀ (s : State) (hz : Word), s.port.halted = false →
    (∀ i ∈ [Instr.cfgUart hz, .cfgSpi hz, .cfgXtal hz],
      (s.itd.trapPhase = .trapped → Raises i s .badContext)
      ∧ (s.itd.trapPhase ≠ .trapped → hz = 0#32 → Raises i s .field)
      ∧ (s.itd.trapPhase ≠ .trapped → hz ≠ 0#32 → s.seq.state ≠ .unconfigured → s.seq.state ≠ .xtalTimeout →
          Raises i s .consumed))
    ∧ (s.itd.trapPhase ≠ .trapped → hz ≠ 0#32 → s.seq.state = .unconfigured ∨ s.seq.state = .xtalTimeout →
        exec (.cfgUart hz) s = .next { s with cfg := { s.cfg with tgtUart := ⟨true, hz⟩ }, port := okPort s 0#32 }
        ∧ exec (.cfgSpi hz) s = .next { s with cfg := { s.cfg with tgtSpi := ⟨true, hz⟩ }, port := okPort s 0#32 }
        ∧ exec (.cfgXtal hz) s = .next { s with cfg := { s.cfg with xtal := ⟨true, hz⟩ }, port := okPort s 0#32 })

/-- In a block that has not halted, FREEZE raises F_BAD_CONTEXT in TRAPPED, then F_FIELD for a non-zero operand, then
F_CONSUMED without the token; else it sets seq_busy, moves seq_pc to S_SAFE, drives no response, leaves the command
on the port and changes nothing else. That the command's word stays on the port is the model's choice (log 11).
(rule R170, rule R110, rule R150.) -/
def Obligations.FreezeStarts : Prop :=
  ∀ (s : State) (arg : Word), s.port.halted = false →
    (s.itd.trapPhase = .trapped → Raises (.freeze arg) s .badContext)
    ∧ (s.itd.trapPhase ≠ .trapped → arg ≠ 0#32 → Raises (.freeze arg) s .field)
    ∧ (s.itd.trapPhase ≠ .trapped → arg = 0#32 → s.seq.state ≠ .unconfigured → s.seq.state ≠ .xtalTimeout →
        Raises (.freeze arg) s .consumed)
    ∧ (s.itd.trapPhase ≠ .trapped → arg = 0#32 → s.seq.state = .unconfigured ∨ s.seq.state = .xtalTimeout →
        exec (.freeze arg) s = .next { s with seq := { s.seq with busy := true, pc := .safe } })

/-- In a block that has not halted, each RD command raises F_BAD_CONTEXT in TRAPPED, then F_FIELD for a non-zero
operand, then F_NOT_FROZEN while there is no descriptor; else it responds OK with its value (0 for an absent
crystal) and changes nothing else. (rule R156, rule R157, rule R158, rule R159, rule R160.) -/
def Obligations.DescriptorReads : Prop :=
  ∀ (s : State) (arg : Word), s.port.halted = false →
    (∀ i ∈ [Instr.rdSysclk arg, .rdUart arg, .rdSpi arg, .rdPllen arg, .rdXtal arg],
      (s.itd.trapPhase = .trapped → Raises i s .badContext)
      ∧ (s.itd.trapPhase ≠ .trapped → arg ≠ 0#32 → Raises i s .field)
      ∧ (s.itd.trapPhase ≠ .trapped → arg = 0#32 → s.clocks.valid = false → Raises i s .notFrozen))
    ∧ (s.itd.trapPhase ≠ .trapped → arg = 0#32 → s.clocks.valid = true →
        exec (.rdSysclk arg) s = .next { s with port := okPort s s.clocks.sysclkHz }
        ∧ exec (.rdUart arg) s = .next { s with port := okPort s s.clocks.uartHz }
        ∧ exec (.rdSpi arg) s = .next { s with port := okPort s s.clocks.spiHz }
        ∧ (s.clocks.pllEn = true → exec (.rdPllen arg) s = .next { s with port := okPort s 1#32 })
        ∧ (s.clocks.pllEn = false → exec (.rdPllen arg) s = .next { s with port := okPort s 0#32 })
        ∧ (s.clocks.xtal.valid = true → exec (.rdXtal arg) s = .next { s with port := okPort s s.clocks.xtal.hz })
        ∧ (s.clocks.xtal.valid = false → exec (.rdXtal arg) s = .next { s with port := okPort s 0#32 }))

/-- In a block that has not halted and has admissible parameters: INSTALL not yet accepted raises F_BAD_CONTEXT in
TRAPPED, then F_REINSTALL after an earlier INSTALL; else it clears global_ie (I1). Its later turns write tvec (I2),
clear the enable words and then the pending words in ascending order (I3, I4), and end with global_ie 1,
VECTOR_INSTALLED and (OK, 0) (I5). Each word write clears its four bytes and leaves every other byte of memory as it
was. That the checks and I1 make one turn and that each later turn makes one access is the model's choice (log 10).
(rule R223, rule R224.) -/
def Obligations.InstallMicroSteps : Prop :=
  ∀ (s : State) (arg : Word), s.params.ok = true → s.port.halted = false → Memory.wf s.mem = true →
    (s.itd.install = none → s.itd.trapPhase = .trapped → Raises (.install arg) s .badContext)
    ∧ (s.itd.install = none → s.itd.trapPhase ≠ .trapped → s.itd.dispState ≠ .uninstalled →
        Raises (.install arg) s .reinstall)
    ∧ (s.itd.install = none → s.itd.trapPhase ≠ .trapped → s.itd.dispState = .uninstalled →
        exec (.install arg) s
          = .next { s with itd := { s.itd with globalIe := false, install := some .vector } })
    ∧ (s.itd.install = some .vector →
        exec (.install arg) s = .next { s with itd := { s.itd with tvec := arg, install := some (.enWord 0) } })
    ∧ (∀ w, w < s.params.bitmapWords → s.itd.install = some (.enWord w) →
        ClearsWord (.install arg) s (s.params.ctrlBase + s.params.enOff + BitVec.ofNat 32 (4 * w))
          (if w + 1 < s.params.bitmapWords then .enWord (w + 1) else .pendWord 0))
    ∧ (∀ w, w < s.params.bitmapWords → s.itd.install = some (.pendWord w) →
        ClearsWord (.install arg) s (s.params.ctrlBase + s.params.pendOff + BitVec.ofNat 32 (4 * w))
          (if w + 1 < s.params.bitmapWords then .pendWord (w + 1) else .finish))
    ∧ (s.itd.install = some .finish →
        exec (.install arg) s = .next { s with
          itd := { s.itd with globalIe := true, dispState := .vectorInstalled, install := none }
          port := okPort s 0#32 })

/-- In a block that has not halted and has admissible parameters, ENABLE raises the fatal of its first failing check
(context, operand form, not installed, UNKNOWN); else it writes 1 to the byte at CTRL_BASE + EN_OFF + irq_of(id),
every other byte of memory reads as before, VECTOR_INSTALLED becomes ACTIVE, the response is (OK, 0), and nothing
else changes. (rule R225.) -/
def Obligations.EnableSlot : Prop :=
  ∀ (s : State) (arg : Word), s.params.ok = true → s.port.halted = false → Memory.wf s.mem = true →
    (s.itd.trapPhase = .trapped → Raises (.enable arg) s .badContext)
    ∧ (s.itd.trapPhase ≠ .trapped →
        ¬ (arg.extractLsb' 8 24 = 0#24 ∧ arg.extractLsb' 0 8 ∈ [0x00#8, 0x01#8, 0x02#8, 0x03#8, 0xFF#8]) →
        Raises (.enable arg) s .field)
    ∧ (s.itd.trapPhase ≠ .trapped → arg ∈ [0x00#32, 0x01#32, 0x02#32, 0x03#32, 0xFF#32] →
        s.itd.dispState = .uninstalled → Raises (.enable arg) s .notInstalled)
    ∧ (s.itd.trapPhase ≠ .trapped → arg = 0xFF#32 → s.itd.dispState ≠ .uninstalled →
        Raises (.enable arg) s .unknownIrq)
    ∧ (∀ c ∈ [(0#32, IrqId.gpio), (1#32, .tch0), (2#32, .tch1), (3#32, .wdt)],
        s.itd.trapPhase ≠ .trapped → arg = c.1 → s.itd.dispState ≠ .uninstalled →
        WritesSlot (.enable arg) s (enAddr s.params (irqOf s.params c.2)) 1#8 0x01#32
          (if s.itd.dispState = .vectorInstalled then .active else s.itd.dispState))

/-- In a block that has not halted and has admissible parameters, DISABLE and CLEAR raise the fatal of their first
failing check; else DISABLE writes 0 to the byte at CTRL_BASE + EN_OFF + irq_of(id) and CLEAR to the byte at
CTRL_BASE + PEND_OFF + irq_of(id); every other byte of memory reads as before, disp_state stays, the response is
(OK, 0), and nothing else changes. (rule R226, rule R227.) -/
def Obligations.DisableAndClearSlot : Prop :=
  ∀ (s : State) (arg : Word), s.params.ok = true → s.port.halted = false → Memory.wf s.mem = true →
    (∀ i ∈ [Instr.disable arg, .clear arg],
      (s.itd.trapPhase = .trapped → Raises i s .badContext)
    ∧ (s.itd.trapPhase ≠ .trapped →
        ¬ (arg.extractLsb' 8 24 = 0#24 ∧ arg.extractLsb' 0 8 ∈ [0x00#8, 0x01#8, 0x02#8, 0x03#8, 0xFF#8]) →
        Raises i s .field)
    ∧ (s.itd.trapPhase ≠ .trapped → arg ∈ [0x00#32, 0x01#32, 0x02#32, 0x03#32, 0xFF#32] →
        s.itd.dispState = .uninstalled → Raises i s .notInstalled)
    ∧ (s.itd.trapPhase ≠ .trapped → arg = 0xFF#32 → s.itd.dispState ≠ .uninstalled →
        Raises i s .unknownIrq))
    ∧ (∀ c ∈ [(0#32, IrqId.gpio), (1#32, .tch0), (2#32, .tch1), (3#32, .wdt)],
        s.itd.trapPhase ≠ .trapped → arg = c.1 → s.itd.dispState ≠ .uninstalled →
        WritesSlot (.disable arg) s (enAddr s.params (irqOf s.params c.2)) 0#8 0x00#32 s.itd.dispState
        ∧ WritesSlot (.clear arg) s (pendAddr s.params (irqOf s.params c.2)) 0#8 0x00#32 s.itd.dispState)

/-- In a block that has not halted, DISPATCH outside TRAPPED raises F_BAD_CONTEXT; in TRAPPED it sets handler_sel to the
one-hot index of decode_cause(cause), handler_frame to its operand and trap_phase to IN_HANDLER, appends (handler,
frame) to call_trace and responds (OK, 0); en, pend, global_ie and cause stay. (rule R229.) -/
def Obligations.DispatchSelects : Prop :=
  ∀ (s : State) (arg : Word), s.port.halted = false →
    (s.itd.trapPhase ≠ .trapped → Raises (.dispatch arg) s .badContext)
    ∧ (s.itd.trapPhase = .trapped →
        exec (.dispatch arg) s = .next { s with
          itd := { s.itd with
            handlerSel := 1#5 <<< (decodeCause s.params s.itd.cause).index
            handlerFrame := arg
            trapPhase := .inHandler }
          trace := { s.trace with call := s.trace.call ++ [(decodeCause s.params s.itd.cause, arg)] }
          port := okPort s 0#32 })

/-- In a block that has not halted, TRET outside IN_HANDLER raises F_BAD_CONTEXT, and with a non-zero operand F_FIELD;
else it sets trap_phase to IDLE, handler_sel and handler_frame to 0, responds (OK, 0), and changes nothing else: no
enable or pending bit, not global_ie. (rule R231.) -/
def Obligations.TretReturns : Prop :=
  ∀ (s : State) (arg : Word), s.port.halted = false →
    (s.itd.trapPhase ≠ .inHandler → Raises (.tret arg) s .badContext)
    ∧ (s.itd.trapPhase = .inHandler → arg ≠ 0#32 → Raises (.tret arg) s .field)
    ∧ (s.itd.trapPhase = .inHandler → arg = 0#32 →
        exec (.tret arg) s = .next { s with
          itd := { s.itd with trapPhase := .idle, handlerSel := 0#5, handlerFrame := 0#32 }
          port := okPort s 0#32 })

/-- In a block that has not halted, NOW puts cyc on the reply port and ELAPSED puts (cyc - since) mod 2^64 there; each
withdraws its request and changes nothing else, the counter included. The values are the rules'; that the answer
stands on a reply port and that the request is withdrawn is the model's choice (log 9). (rule R131, rule R132, rule
R111.) -/
def Obligations.NowAndElapsed : Prop :=
  ∀ (s : State) (since : Cycles), s.port.halted = false →
    exec .now s = .next { s with du := { s.du with reply := s.du.cyc, req := none } }
    ∧ exec (.elapsed since) s = .next { s with du :=
        { s.du with
          reply := BitVec.ofNat 64 ((s.du.cyc.toNat + (2 ^ 64 - since.toNat)) % 2 ^ 64)
          req := none } }

/-- WAIT_CYCLES(n) begins by capturing the counter and n; a wait of 0 cycles is over at the first evaluation; a later
evaluation changes nothing while fewer than the waited-for cycles have elapsed (unsigned, wrapping) and ends the
wait, with one entry D in clk_trace, as soon as they have. That the capture and the first evaluation make one turn,
that each later turn makes one evaluation, the bit that a wait is in progress, the completion signal and the
withdrawn request are the model's choice (log 9). (rule R133, rule R111.) -/
def Obligations.WaitCyclesCounts : Prop :=
  ∀ n : Cycles, WaitBehaviour (exec (.waitCycles n)) (fun _ => n)

/-- WAIT_MICROS(us) and WAIT_MILLIS(ms) behave as a wait of us * core_freq / 1,000,000 and ms * core_freq / 1,000
cycles, the product taken exactly (it is below 2^64 for every pair of operands) and the division truncating. The
cycle counts are the rules'; the turns, the completion signal and the withdrawn request are the model's choice (log
9). (rule R134, rule R135, rule R133, rule R111.) -/
def Obligations.WaitDurations : Prop :=
  (∀ us : BitVec 32, WaitBehaviour (exec (.waitMicros us))
      (fun s => BitVec.ofNat 64 (us.toNat * s.seq.coreFreq.toNat / 1000000)))
    ∧ (∀ ms : BitVec 32, WaitBehaviour (exec (.waitMillis ms))
      (fun s => BitVec.ofNat 64 (ms.toNat * s.seq.coreFreq.toNat / 1000)))
    ∧ (∀ d hz : BitVec 32, d.toNat * hz.toNat < 2 ^ 64)

/-- In a block that has not halted, S_SAFE writes CT.root_sel = 0 with its trace entry, sets core_freq to F_RC_HZ and
seq_state to SAFE_DEFAULT, goes on to S_REACH, and changes nothing else. (rule R173.) -/
def Obligations.StepSafe : Prop :=
  ∀ s : State, s.port.halted = false →
    exec .sSafe s = .next { s with
      ct := { s.ct with rootSel := 0#1 }
      seq := { s.seq with coreFreq := s.params.fRcHz, state := .safeDefault, pc := .reach }
      trace := { s.trace with clk := s.trace.clk ++ [.w .rootSel 0] } }

/-- In a block that has not halted, with e the SYSCLK_TABLE entry selected: without a crystal an RC entry latches its
frequency and goes on to S_DIVCALC and a tap raises F_SYSCLK; with a crystal a tap entry latches frequency and tap
and goes on to S_XTAL_ON and RC raises F_SYSCLK. Nothing else changes. (rule R174.) -/
def Obligations.StepReach : Prop :=
  ∀ (s : State) (e : SysclkEntry), s.port.halted = false → s.params.sysclkEntry s.cfg.tgtSysclk = some e →
    (s.cfg.xtal.valid = false → e.src = .rc →
        exec .sReach s = .next { s with seq := { s.seq with tgtHz := e.hz, pc := .divcalc } })
    ∧ (s.cfg.xtal.valid = false → e.src ≠ .rc → Raises .sReach s .sysclk)
    ∧ (s.cfg.xtal.valid = true → e.src = .rc → Raises .sReach s .sysclk)
    ∧ (∀ k, s.cfg.xtal.valid = true → e.src = .tap k →
        exec .sReach s = .next { s with seq := { s.seq with tgtHz := e.hz, tgtTap := k, pc := .xtalOn } })

/-- In a block that has not halted, S_XTAL_ON enters CRYSTAL_POWERING, writes CT.xtal_pu = 1 with its trace entry,
clears poll_cnt, goes on to S_POLL_WAIT, and changes nothing else. (rule R175.) -/
def Obligations.StepXtalOn : Prop :=
  ∀ s : State, s.port.halted = false →
    exec .sXtalOn s = .next { s with
      ct := { s.ct with xtalPu := 1#1 }
      seq := { s.seq with state := .crystalPowering, pollCnt := 0#8, pc := .pollWait }
      trace := { s.trace with clk := s.trace.clk ++ [.w .xtalPu 1] } }

/-- S_POLL_WAIT requests WAIT_MICROS(XTAL_POLL_US), holds while the request stands and then goes on to S_POLL_READ;
S_SETTLE does the same with T_SETTLE_US and S_DIVCALC. Nothing else changes. The request on the delay unit's port,
the turns on which it holds and the completion signal it moves on are the model's choice (log 9). (rule R176, rule
R197, rule R171, rule R111.) -/
def Obligations.PollAndSettleWait : Prop :=
  HeldMicroStep .sPollWait (·.xtalPollUs) .pollRead id
    ∧ HeldMicroStep .sSettle (·.tSettleUs) .divcalc id

/-- In a block that has not halted, S_POLL_READ takes the environment's answer b, increments poll_cnt, appends
R(xtal_ready, b), and goes on to S_PLL_LOOKUP if b = 1, else to S_TIMEOUT if the count has reached XTAL_POLL_MAX,
else to S_POLL_WAIT; nothing else changes but the answer being used up. Where the answer comes from (the next
announced one, else a free value at the count of free answers drawn) is the model's choice (log 3). (rule R178, rule
R31, rule R56.) -/
def Obligations.StepPollRead : Prop :=
  ∀ (s : State) (b : Bool) (e : Env), s.port.halted = false →
    (∃ rest, s.env.xtalAnswers = b :: rest ∧ e = { s.env with xtalAnswers := rest })
      ∨ (s.env.xtalAnswers = [] ∧ b = Config.xtalAnswer s.env.xtalDraws
          ∧ e = { s.env with xtalDraws := s.env.xtalDraws + 1 }) →
    exec .sPollRead s = .next { s with
      seq := { s.seq with
        pollCnt := s.seq.pollCnt + 1#8
        pc := if b = true then .pllLookup
          else if s.seq.pollCnt + 1#8 = s.params.xtalPollMax then .timeout else .pollWait }
      trace := { s.trace with clk := s.trace.clk ++ [.r b] }
      env := e }

/-- In a block that has not halted, S_TIMEOUT enters XTAL_TIMEOUT, returns the four configuration registers to their
fresh values, clears seq_busy, makes seq_pc S_IDLE and responds (TIMEOUT, 0); no CT field, no descriptor register
and nothing else changes. (rule R205.) -/
def Obligations.StepTimeout : Prop :=
  ∀ s : State, s.port.halted = false →
    exec .sTimeout s = .next { s with
      seq := { s.seq with state := .xtalTimeout, busy := false, pc := .idle }
      cfg := { tgtSysclk := s.params.sysclkResetSel, tgtUart := ⟨false, 0#32⟩, tgtSpi := ⟨false, 0#32⟩,
               xtal := ⟨false, 0#32⟩ }
      port := { s.port with rspStatus := .timeout, rspData := 0#32, cmd := none } }

/-- In a block that has not halted, S_PLL_LOOKUP enters PLL_CONFIGURING; if the crystal frequency is in PLL_TABLE it
latches the entry's triple and goes on to S_PLL_FB, else it raises F_XTAL_FREQ, leaving the new seq_state and
changing nothing else. (rule R179.) -/
def Obligations.StepPllLookup : Prop :=
  ∀ s : State, s.port.halted = false →
    (∀ e, s.params.pllEntry s.cfg.xtal.hz = some e →
        exec .sPllLookup s = .next { s with
          seq := { s.seq with state := .pllConfiguring, pllLatch := e.triple, pc := .pllFb } })
    ∧ (s.params.pllEntry s.cfg.xtal.hz = none →
        exec .sPllLookup s = .next
          (fatalState { s with seq := { s.seq with state := .pllConfiguring } } .xtalFreq))

/-- In a block that has not halted, S_PLL_FB, S_PLL_CP and S_PLL_PD write CT.pll_fb, CT.pll_cp and CT.pll_pd with the
latched value, each with its trace entry, go on to S_PLL_CP, S_PLL_PD and S_PU_BIAS, and change nothing else. (rule
R180, rule R181, rule R182.) -/
def Obligations.PllParameterWrites : Prop :=
  ∀ s : State, s.port.halted = false →
    exec .sPllFb s = .next { s with
      ct := { s.ct with pllFb := s.seq.pllLatch.fb }
      seq := { s.seq with pc := .pllCp }
      trace := { s.trace with clk := s.trace.clk ++ [.w .pllFb s.seq.pllLatch.fb.toNat] } }
    ∧ exec .sPllCp s = .next { s with
      ct := { s.ct with pllCp := s.seq.pllLatch.cp }
      seq := { s.seq with pc := .pllPd }
      trace := { s.trace with clk := s.trace.clk ++ [.w .pllCp s.seq.pllLatch.cp.toNat] } }
    ∧ exec .sPllPd s = .next { s with
      ct := { s.ct with pllPd := s.seq.pllLatch.pd }
      seq := { s.seq with pc := .puBias }
      trace := { s.trace with clk := s.trace.clk ++ [.w .pllPd s.seq.pllLatch.pd.toNat] } }

/-- S_PU_BIAS (which also enters PLL_POWERING_UP), S_PU_CORE, S_PU_CPDIV, S_SDM_SET, S_SDM_CLR, S_FBDV_SET and
S_FBDV_CLR each make their one CT write with its trace entry, request WAIT_MICROS of their own parameter, hold while
it stands, and go on to the next in that order, the last to S_TAPS. Nothing else changes. The three phases of each
(request, hold, done) with the request on the delay unit's port and the completion signal are the model's choice
(log 9). (rule R183, rule R184, rule R185, rule R186, rule R187, rule R188, rule R189, rule R171, rule R111.) -/
def Obligations.PowerUpSequence : Prop :=
  HeldMicroStep .sPuBias (·.tBiasUs) .puCore (fun s => { s with
        seq := { s.seq with state := .pllPoweringUp }
        ct := { s.ct with pllBiasEn := 1#1 }
        trace := { s.trace with clk := s.trace.clk ++ [.w .pllBiasEn 1] } })
    ∧ HeldMicroStep .sPuCore (·.tCoreUs) .puCpdiv (fun s => { s with
        ct := { s.ct with pllCoreEn := 1#1 }
        trace := { s.trace with clk := s.trace.clk ++ [.w .pllCoreEn 1] } })
    ∧ HeldMicroStep .sPuCpdiv (·.tCpdivUs) .sdmSet (fun s => { s with
        ct := { s.ct with pllCpdivEn := 1#1 }
        trace := { s.trace with clk := s.trace.clk ++ [.w .pllCpdivEn 1] } })
    ∧ HeldMicroStep .sSdmSet (·.tSdmPulseUs) .sdmClr (fun s => { s with
        ct := { s.ct with pllSdmRst := 1#1 }
        trace := { s.trace with clk := s.trace.clk ++ [.w .pllSdmRst 1] } })
    ∧ HeldMicroStep .sSdmClr (·.tSdmUs) .fbdvSet (fun s => { s with
        ct := { s.ct with pllSdmRst := 0#1 }
        trace := { s.trace with clk := s.trace.clk ++ [.w .pllSdmRst 0] } })
    ∧ HeldMicroStep .sFbdvSet (·.tFbdvPulseUs) .fbdvClr (fun s => { s with
        ct := { s.ct with pllFbdvRst := 1#1 }
        trace := { s.trace with clk := s.trace.clk ++ [.w .pllFbdvRst 1] } })
    ∧ HeldMicroStep .sFbdvClr (·.tFbdvUs) .taps (fun s => { s with
        ct := { s.ct with pllFbdvRst := 0#1 }
        trace := { s.trace with clk := s.trace.clk ++ [.w .pllFbdvRst 0] } })

/-- In a block that has not halted and has admissible parameters, S_TAPS enters PLL_STABILIZING and writes bit k of
CT.pll_tap_en to 1 exactly for k below NTAPS, S_PLLSEL writes CT.pll_sel_en = 1 and S_TAPSEL writes CT.pll_tap_sel
with the latched tap, each with its trace entry and its successor, and nothing else changes. (rule R190, rule R191,
rule R192.) -/
def Obligations.TapWrites : Prop :=
  ∀ s : State, s.params.ok = true → s.port.halted = false →
    (∃ v : BitVec 8, (∀ k, v.getLsbD k = decide (k < s.params.nTaps)) ∧ v.toNat = 2 ^ s.params.nTaps - 1
      ∧ exec .sTaps s = .next { s with
        ct := { s.ct with pllTapEn := v }
        seq := { s.seq with state := .pllStabilizing, pc := .pllsel }
        trace := { s.trace with clk := s.trace.clk ++ [.w .pllTapEn (2 ^ s.params.nTaps - 1)] } })
    ∧ exec .sPllsel s = .next { s with
        ct := { s.ct with pllSelEn := 1#1 }
        seq := { s.seq with pc := .tapsel }
        trace := { s.trace with clk := s.trace.clk ++ [.w .pllSelEn 1] } }
    ∧ exec .sTapsel s = .next { s with
        ct := { s.ct with pllTapSel := s.seq.tgtTap }
        seq := { s.seq with pc := .busdiv }
        trace := { s.trace with clk := s.trace.clk ++ [.w .pllTapSel s.seq.tgtTap.toNat] } }

/-- In a block that has not halted and has admissible parameters, with a positive target frequency: let d be the ceiling
of tgt_hz / BCLK_MAX_HZ. d is at least 1, tgt_hz fits in d times BCLK_MAX_HZ and in no smaller multiple. If d is
above BCLK_DIV_MAX the micro-step raises F_FIELD with hclk_div already written and bclk_div not; else it writes
both, fits d in the field and goes on to S_ICACHE. Nothing else changes. (rule R193.) -/
def Obligations.StepBusdiv : Prop :=
  ∀ (s : State) (d : Nat), s.params.ok = true → s.port.halted = false → 0 < s.seq.tgtHz.toNat →
    d = (s.seq.tgtHz.toNat + s.params.bclkMaxHz.toNat - 1) / s.params.bclkMaxHz.toNat →
    (1 ≤ d ∧ s.seq.tgtHz.toNat ≤ d * s.params.bclkMaxHz.toNat
      ∧ ∀ d', s.seq.tgtHz.toNat ≤ d' * s.params.bclkMaxHz.toNat → d ≤ d')
    ∧ (s.params.bclkDivMax < d →
        exec .sBusdiv s = .next (fatalState { s with
          ct := { s.ct with hclkDiv := 1#9 }
          trace := { s.trace with clk := s.trace.clk ++ [.w .hclkDiv 1] } } .field))
    ∧ (d ≤ s.params.bclkDivMax → (BitVec.ofNat 9 d).toNat = d
        ∧ exec .sBusdiv s = .next { s with
          ct := { s.ct with hclkDiv := 1#9, bclkDiv := BitVec.ofNat 9 d }
          seq := { s.seq with pc := .icache }
          trace := { s.trace with clk := s.trace.clk ++ [.w .hclkDiv 1, .w .bclkDiv d] } })

/-- In a block that has not halted, S_ICACHE writes CT.icache_ws = 1 with its trace entry if tgt_hz is above
ICACHE_WS_THRESHOLD_HZ and writes no CT field otherwise; it goes on to S_SWITCH, and nothing else changes. (rule
R194.) -/
def Obligations.StepIcache : Prop :=
  ∀ s : State, s.port.halted = false →
    (s.params.icacheWsThresholdHz.toNat < s.seq.tgtHz.toNat →
        exec .sIcache s = .next { s with
          ct := { s.ct with icacheWs := 1#1 }
          seq := { s.seq with pc := .switch }
          trace := { s.trace with clk := s.trace.clk ++ [.w .icacheWs 1] } })
    ∧ (s.seq.tgtHz.toNat ≤ s.params.icacheWsThresholdHz.toNat →
        exec .sIcache s = .next { s with seq := { s.seq with pc := .switch } })

/-- In a block that has not halted, S_SWITCH enters ROOT_CLOCK_SWITCHED and writes CT.root_sel = 1 with its trace entry;
S_SHADOW sets core_freq to tgt_hz and leaves no trace entry; each goes on to its successor and changes nothing else.
(rule R195, rule R196.) -/
def Obligations.SwitchAndShadow : Prop :=
  ∀ s : State, s.port.halted = false →
    exec .sSwitch s = .next { s with
      ct := { s.ct with rootSel := 1#1 }
      seq := { s.seq with state := .rootClockSwitched, pc := .shadow }
      trace := { s.trace with clk := s.trace.clk ++ [.w .rootSel 1] } }
    ∧ exec .sShadow s = .next { s with seq := { s.seq with coreFreq := s.seq.tgtHz, pc := .settle } }

/-- For every source frequency, target and maximum: an absent target answers divisor 1 and the source; a present target
that is not 0 answers (d, target) exactly when d times the target is the source with 1 <= d <= max, and Err exactly
when there is no such d. (rule R198.) -/
def Obligations.DivcheckExact : Prop :=
  ∀ (src : Hz) (tgt : OptFreq) (max : Nat),
    (tgt.valid = false → divcheck src tgt max = some (1, src))
    ∧ (tgt.valid = true → tgt.hz ≠ 0#32 →
        (∀ d, 1 ≤ d → d ≤ max → d * tgt.hz.toNat = src.toNat → divcheck src tgt max = some (d, tgt.hz))
        ∧ ((∀ d, 1 ≤ d → d ≤ max → d * tgt.hz.toNat ≠ src.toNat) → divcheck src tgt max = none)
        ∧ ∀ r, divcheck src tgt max = some r →
            1 ≤ r.1 ∧ r.1 ≤ max ∧ r.1 * tgt.hz.toNat = src.toNat ∧ r.2 = tgt.hz)

/-- In a block that has not halted and has admissible parameters, S_DIVCALC raises F_UART_DIV if the UART check fails,
else F_SPI_DIV if the SPI check fails, with no CT write and no trace entry; else it latches both divisors (each fits
its register) and both frequencies, goes on to S_UARTDIV and changes nothing else. (rule R199.) -/
def Obligations.StepDivcalc : Prop :=
  ∀ s : State, s.params.ok = true → s.port.halted = false →
    (divcheck s.seq.tgtHz s.cfg.tgtUart s.params.uartDivMax = none → Raises .sDivcalc s .uartDiv)
    ∧ (∀ u, divcheck s.seq.tgtHz s.cfg.tgtUart s.params.uartDivMax = some u →
        divcheck s.seq.tgtHz s.cfg.tgtSpi s.params.spiDivMax = none → Raises .sDivcalc s .spiDiv)
    ∧ (∀ u v, divcheck s.seq.tgtHz s.cfg.tgtUart s.params.uartDivMax = some u →
        divcheck s.seq.tgtHz s.cfg.tgtSpi s.params.spiDivMax = some v →
        (BitVec.ofNat 8 u.1).toNat = u.1 ∧ (BitVec.ofNat 8 v.1).toNat = v.1
        ∧ exec .sDivcalc s = .next { s with seq :=
          { s.seq with
            uartDivC := BitVec.ofNat 8 u.1, uartHzC := u.2
            spiDivC := BitVec.ofNat 8 v.1, spiHzC := v.2, pc := .uartdiv } })

/-- In a block that has not halted, S_UARTDIV writes CT.uart_div and S_SPIDIV writes CT.spi_div with the latched divisor
itself, each with its trace entry and its successor, and nothing else changes. (rule R200, rule R201.) -/
def Obligations.DividerWrites : Prop :=
  ∀ s : State, s.port.halted = false →
    exec .sUartdiv s = .next { s with
      ct := { s.ct with uartDiv := s.seq.uartDivC }
      seq := { s.seq with pc := .spidiv }
      trace := { s.trace with clk := s.trace.clk ++ [.w .uartDiv s.seq.uartDivC.toNat] } }
    ∧ exec .sSpidiv s = .next { s with
      ct := { s.ct with spiDiv := s.seq.spiDivC }
      seq := { s.seq with pc := .done }
      trace := { s.trace with clk := s.trace.clk ++ [.w .spiDiv s.seq.spiDivC.toNat] } }

/-- In a block that has not halted, S_DONE writes the six descriptor registers from tgt_hz, the two resulting
frequencies and the crystal setting, enters FROZEN, returns the configuration registers to their fresh values,
clears seq_busy, makes seq_pc S_IDLE and responds (OK, 0); nothing else changes. (rule R204.) -/
def Obligations.StepDone : Prop :=
  ∀ s : State, s.port.halted = false →
    exec .sDone s = .next { s with
      clocks := { valid := true, sysclkHz := s.seq.tgtHz, uartHz := s.seq.uartHzC, spiHz := s.seq.spiHzC,
                  xtal := s.cfg.xtal, pllEn := s.cfg.xtal.valid }
      seq := { s.seq with state := .frozen, busy := false, pc := .idle }
      cfg := { tgtSysclk := s.params.sysclkResetSel, tgtUart := ⟨false, 0#32⟩, tgtSpi := ⟨false, 0#32⟩,
               xtal := ⟨false, 0#32⟩ }
      port := okPort s 0#32 }

/-- With admissible parameters, in a block that has not halted and whose turn it is: if a delay-unit request stands, the
step is the meaning of the request it decodes to; else if seq_pc selects a micro-step, of that micro-step; else if a
command is in progress, of that command. A command the schedule presents when the host is free is placed on the port
and run in the same step. The step adds nothing but the use of the schedule's entry. The order in which the block's
agents get their turn and the schedule's entries are the model's choice (log 5), as is presenting and running a
command in one step (log 11). (rule R171, rule R83, rule R100.) -/
def Obligations.StepRunsDecoded : Prop :=
  (∀ s s1 : State, s.params.ok = true → s.port.halted = false → ownTurn s s1 →
      (∀ w i, s.du.req = some w → decode (.delay w) = .ok i → step s = exec i s1)
      ∧ (∀ i, s.du.req = none → decode (.micro s.seq.pc.code) = .ok i → step s = exec i s1)
      ∧ (∀ w i, s.du.req = none → s.seq.pc = .idle → s.port.cmd = some w → decode (.command w) = .ok i →
          step s = exec i s1))
    ∧ (∀ (s : State) (w : BitVec 40) (rest : List Event) (i : Instr), s.params.ok = true →
        s.port.halted = false → s.hostReady = true → s.env.sched = .cmd w :: rest → decode (.command w) = .ok i →
        step s = exec i { s with env := { s.env with sched := rest }, port := { s.port with cmd := some w } })

/-- CFG_SYSCLK 3, CFG_UART 40000000, FREEZE, RD_XTAL, INSTALL, ENABLE WDT, CLEAR WDT, DISPATCH and TRET from their
40-bit words, ELAPSED and WAIT_MICROS from their 67-bit words, S_DIVCALC and S_TIMEOUT from their 6-bit codes;
opcode 0x06, du_op 5 and seq_pc 25 decode to nothing. (rule R101, rule R102, rule R111, rule R112.) -/
def Obligations.SampleWordsDecode : Prop :=
  decode (.command 0x0100000003#40) = .ok (.cfgSysclk 3#32)
    ∧ decode (.command 0x0202625A00#40) = .ok (.cfgUart 40000000#32)
    ∧ decode (.command 0x0500000000#40) = .ok (.freeze 0#32)
    ∧ decode (.command 0x0C00000000#40) = .ok (.rdXtal 0#32)
    ∧ decode (.command 0x1022000100#40) = .ok (.install 0x22000100#32)
    ∧ decode (.command 0x1100000003#40) = .ok (.enable 3#32)
    ∧ decode (.command 0x1300000003#40) = .ok (.clear 3#32)
    ∧ decode (.command 0x144200FF00#40) = .ok (.dispatch 0x4200FF00#32)
    ∧ decode (.command 0x1500000000#40) = .ok (.tret 0#32)
    ∧ decode (.delay 0x1FFFFFFFFFFFFFFFA#67) = .ok (.elapsed 0xFFFFFFFFFFFFFFFA#64)
    ∧ decode (.delay 0x3000000000000000A#67) = .ok (.waitMicros 10#32)
    ∧ decode (.micro 30#6) = .ok .sDivcalc
    ∧ decode (.micro 40#6) = .ok .sTimeout
    ∧ decode (.command 0x0600000000#40) = .error (.reservedOpcode 0x06#8)
    ∧ decode (.delay 0x50000000000000000#67) = .error (.duOpNeverOccurs 5#3)
    ∧ decode (.micro 25#6) = .error (.noMicroStep 25#6)

/-- With admissible parameters, a command the host presents whose opcode is none of the sixteen halts the block with
F_ILLEGAL_CMD and changes nothing else but the schedule's entry, in every trap phase. That the command comes from
the schedule is the model's choice (log 5), as is presenting and running it in one step (log 11). (rule R107, rule
R110.) -/
def Obligations.ReservedOpcodeFatal : Prop :=
  ∀ (s : State) (w : BitVec 40) (rest : List Event), s.params.ok = true → s.port.halted = false →
    s.hostReady = true → s.env.sched = .cmd w :: rest →
    w.extractLsb' 32 8 ∉ [0x01#8, 0x02#8, 0x03#8, 0x04#8, 0x05#8, 0x08#8, 0x09#8, 0x0A#8, 0x0B#8, 0x0C#8,
      0x10#8, 0x11#8, 0x12#8, 0x13#8, 0x14#8, 0x15#8] →
    step s = .next (fatalState { s with env := { s.env with sched := rest } } .illegalCmd)

/-- An IRQ_RAISE of a slot that does not exist and an injected interrupt cause while global_ie is 0 are refused as
events that cannot occur (log 21); a delay-unit operation of 5 to 7 (log 14) and a WAIT_MICROS or WAIT_MILLIS
request with a bit of 63:32 set (log 13) are refused as words that never occur; S_REACH with a selection that is no
key of SYSCLK_TABLE, which no state of the sequence invariant holds, is refused (log 20); MemRead and MemWrite
answer nothing for a width other than 1 and 4, for a byte outside both regions and for a word that is misaligned or
not inside one region (log 16). Refusing by these names is the model's choice, in the log entries named; turns and
events are entries of the schedule (log 5). (rule R260, rule R264, rule R111, rule R174, rule R74, rule R75, rule
R77, rule R78.) -/
def Obligations.RefusedInputs : Prop :=
  (∀ s : State, s.params.ok = true → s.port.halted = false →
    (∀ n rest, s.params.nslot ≤ n → s.env.sched = .raise n :: rest → step s = .refused .eventNotAdmitted)
    ∧ (∀ v rest, s.quiet = true → v.getLsbD 31 = true → s.itd.globalIe = false → s.env.sched = .trap v :: rest →
        step s = .refused .eventNotAdmitted)
    ∧ (∀ op a s1, op ∈ [5#3, 6#3, 7#3] → ownTurn s s1 → s.du.req = some (duWord op a) →
        step s = .refused .neverOccurs)
    ∧ (∀ op a s1, op ∈ [3#3, 4#3] → a.extractLsb' 32 32 ≠ 0#32 → ownTurn s s1 → s.du.req = some (duWord op a) →
        step s = .refused .neverOccurs)
    ∧ (s.params.sysclkEntry s.cfg.tgtSysclk = none → exec .sReach s = .refused .sysclkSelNotKey))
    ∧ (∀ (s : State) (addr : Addr) (n : Nat) (v : Word),
        (n = 1 → ¬ insideRegion s.params addr.toNat 1) →
        (n = 4 → ¬ (addr.toNat % 4 = 0 ∧ insideRegion s.params addr.toNat 4)) →
        s.memRead addr n = none ∧ s.memWrite addr n v = none)

/-- With admissible parameters, in every state, halted or not and whatever is in progress, a scheduled hardware reset
answers the power-up state; in a halted block every instruction stops with the fault that carries the fault code,
and so does every step whose next event is not the reset. That the reset is an entry of the schedule that keeps the
parameters and the environment is the model's choice (log 5, log 22), as are the zeros of the elements rule R55
calls unspecified (log 6, log 7) and the fault a halted block answers (log 12). (rule R250, rule R30, rule R300,
rule R55.) -/
def Obligations.HaltedIsStuck : Prop :=
  ∀ s : State, s.params.ok = true →
    (∀ rest, s.env.sched = .reset :: rest →
        step s = .next (State.powerUp s.params { s.env with sched := rest }))
    ∧ (s.port.halted = true →
        (∀ i, exec i s = .fault (.halted s.port.faultCode))
        ∧ ((∀ rest, s.env.sched ≠ .reset :: rest) → step s = .fault (.halted s.port.faultCode)))

/-- After a full hardware reset with any parameters: every value rule R55 states (the builder, seq_state, seq_pc,
seq_busy, poll_cnt, halted, fault_code, clocks_valid, the response port, disp_state, trap_phase, global_ie,
handler_sel, handler_frame, trap_pc, the three empty traces); no interrupt trap can be delivered; CFG_UART, CFG_SPI,
CFG_XTAL with a non-zero frequency, CFG_SYSCLK with a key, FREEZE and INSTALL are accepted; RD commands raise
F_NOT_FROZEN, ENABLE, DISABLE and CLEAR of a recognized identity F_NOT_INSTALLED, DISPATCH and TRET F_BAD_CONTEXT.
Nothing is said of the elements rule R55 calls unspecified, whose zeros are the model's choice (log 6, log 7). (rule
R301, rule R55.) -/
def Obligations.ResetState : Prop :=
  ∀ (p : Params) (e : Env) (s : State), s = State.powerUp p e →
    (s.seq.state = .unconfigured ∧ s.seq.pc = .idle ∧ s.seq.busy = false
      ∧ s.cfg.tgtSysclk = p.sysclkResetSel ∧ s.cfg.tgtUart = ⟨false, 0#32⟩ ∧ s.cfg.tgtSpi = ⟨false, 0#32⟩
      ∧ s.cfg.xtal = ⟨false, 0#32⟩ ∧ s.clocks.valid = false ∧ s.seq.pollCnt = 0#8
      ∧ s.itd.dispState = .uninstalled
      ∧ s.itd.trapPhase = .idle ∧ s.itd.globalIe = false ∧ s.itd.handlerSel = 0#5
      ∧ s.itd.handlerFrame = 0#32 ∧ s.itd.trapPc = 0#32
      ∧ s.trace.clk = [] ∧ s.trace.mem = [] ∧ s.trace.call = [] ∧ s.port.halted = false ∧ s.port.faultCode.code = 0x00#8
      ∧ s.port.rspStatus.code = 0x00#8 ∧ s.port.rspData = 0#32 ∧ s.deliverable = false)
    ∧ (∀ i arg hz, hz ≠ 0#32 → arg.extractLsb' 8 24 = 0#24 → (p.sysclkEntry (arg.extractLsb' 0 8)).isSome = true →
        ∀ stub, i ∈ [Instr.cfgSysclk arg, .cfgUart hz, .cfgSpi hz, .cfgXtal hz, .freeze 0#32, .install stub] →
        ∃ t, exec i s = .next t ∧ t.port.halted = false)
    ∧ (∀ i ∈ [Instr.rdSysclk 0#32, .rdUart 0#32, .rdSpi 0#32, .rdPllen 0#32, .rdXtal 0#32], Raises i s .notFrozen)
    ∧ (∀ id ∈ [0#32, 1#32, 2#32, 3#32], ∀ i ∈ [Instr.enable id, .disable id, .clear id], Raises i s .notInstalled)
    ∧ (∀ frame, Raises (.dispatch frame) s .badContext) ∧ Raises (.tret 0#32) s .badContext

/-- With admissible parameters, in a block that has not halted: a scheduled TICK adds 1 to cyc, wrapping, and changes
nothing else; a scheduled IRQ_RAISE of a slot that exists makes its pending byte 1, leaves every other byte of
memory, makes no trace entry and changes nothing else. That TICK and IRQ_RAISE are entries of the schedule is the
model's choice (log 5). (rule R130, rule R260.) -/
def Obligations.TickAndRaise : Prop :=
  ∀ (s : State) (rest : List Event), s.params.ok = true → s.port.halted = false → Memory.wf s.mem = true →
    (s.env.sched = .tick :: rest →
      step s = .next { s with
        du := { s.du with cyc := BitVec.ofNat 64 ((s.du.cyc.toNat + 1) % 2 ^ 64) }
        env := { s.env with sched := rest } })
    ∧ (∀ n, n < s.params.nslot → s.env.sched = .raise n :: rest →
      ∃ t, step s = .next t ∧ t.pend n = true ∧ Memory.read t.mem (pendAddr s.params n).toNat = 1#8
        ∧ (∀ x, x ≠ (pendAddr s.params n).toNat → Memory.read t.mem x = Memory.read s.mem x)
        ∧ t = { s with mem := t.mem, env := { s.env with sched := rest } })

/-- With admissible parameters, in a block that has not halted, with no command and no sequence running, an injected
trap with cause v that is admitted (v[31] = 0 or global_ie = 1) raises F_NOT_INSTALLED while UNINSTALLED, else
F_NESTED_TRAP while a trap is in progress, else sets cause to v, the phase to TRAPPED and trap_pc to tvec and
changes nothing else. That an injected trap is an entry of the schedule is the model's choice (log 5), as is when it
is admitted (log 21). (rule R264, rule R265, rule R268.) -/
def Obligations.InjectedTrap : Prop :=
  ∀ (s : State) (v : Word) (rest : List Event), s.params.ok = true → s.port.halted = false → s.quiet = true →
    s.env.sched = .trap v :: rest → v.getLsbD 31 = false ∨ s.itd.globalIe = true →
    (s.itd.dispState = .uninstalled →
        step s = .next (fatalState { s with env := { s.env with sched := rest } } .notInstalled))
    ∧ (s.itd.dispState ≠ .uninstalled → s.itd.trapPhase ≠ .idle →
        step s = .next (fatalState { s with env := { s.env with sched := rest } } .nestedTrap))
    ∧ (s.itd.dispState ≠ .uninstalled → s.itd.trapPhase = .idle →
        step s = .next { s with
          itd := { s.itd with cause := v, trapPhase := .trapped, trapPc := s.itd.tvec }
          env := { s.env with sched := rest } })

/-- With admissible parameters, with no request, no micro-step and no command in progress and the delivery condition
true: at the block's own turn, and also when the host has a command ready, the step takes a trap: some candidate n
becomes the cause with the interrupt flag, the phase becomes TRAPPED, trap_pc becomes tvec, and nothing else changes
but the count of free choices; the host's command stays unserved. The count of free choices is the model's choice
(log 4), as is the scheduled command that waits unconsumed at the block's turn (log 5). (rule R262, rule R263, rule
R265, rule R266.) -/
def Obligations.InterruptDelivery : Prop :=
  ∀ s s1 : State, s.params.ok = true → s.du.req = none → s.seq.pc = .idle → s.deliverable = true → ownTurn s s1 →
    ∃ n, (n < s.params.nslot ∧ s.en n = true ∧ s.pend n = true)
      ∧ step s = .next { s1 with
        itd := { s.itd with
          cause := 0x80000000#32 ||| BitVec.ofNat 32 n, trapPhase := .trapped, trapPc := s.itd.tvec }
        env := { s1.env with arbDraws := s.env.arbDraws + 1 } }

/-- For admissible parameters and every cause: without the interrupt flag the handler is EXC; with it, a low byte that
is the IRQ number of a recognized identity gives that identity's handler, and any other low byte gives EXC; bits 30
to 8 do not matter. (rule R228.) -/
def Obligations.DecodeCauseFlagFirst : Prop :=
  ∀ (p : Params) (c : Word), p.ok = true →
    (c.getLsbD 31 = false → decodeCause p c = .exc)
    ∧ (∀ id : IrqId, c.getLsbD 31 = true → (c.extractLsb' 0 8).toNat = irqOf p id →
        (decodeCause p c).index = id.handler.index)
    ∧ (c.getLsbD 31 = true → (∀ id : IrqId, (c.extractLsb' 0 8).toNat ≠ irqOf p id) → decodeCause p c = .exc)
    ∧ (∀ c', c'.getLsbD 31 = c.getLsbD 31 → c'.extractLsb' 0 8 = c.extractLsb' 0 8 →
        decodeCause p c' = decodeCause p c)

/-- For every instruction of the block, with every operand value its word can carry, decode (encode i) is i: no bit of
an operand is dropped and no two instructions share a word. (rule R101, rule R102, rule R103, rule R111, rule R112.) -/
def Obligations.DecodeEncode : Prop :=
  ∀ i : Instr, decode (encode i) = .ok i

/-- Every command word, delay request and micro-step code that decodes to an instruction other than NOW is that
instruction's encoding; a word that decodes to NOW has du_op 0. (rule R101, rule R102, rule R111, rule R112.) -/
def Obligations.EncodeDecode : Prop :=
  ∀ (w : FetchWord) (i : Instr), decode w = .ok i →
    (i ≠ .now → encode i = w) ∧ (i = .now → ∃ a : BitVec 64, w = .delay (duWord 0#3 a))

/-- For every defined command, in a block that has not halted and is not inside INSTALL: in TRAPPED every command but
DISPATCH raises F_BAD_CONTEXT, DISPATCH does so outside TRAPPED and TRET outside IN_HANDLER; no other pairing of a
defined opcode and a phase raises it. (rule R109.) -/
def Obligations.ContextCheck : Prop :=
  ∀ (s : State) (w : BitVec 40) (i : Instr), s.port.halted = false → s.itd.install = none →
    decode (.command w) = .ok i →
    ((w.extractLsb' 32 8 ≠ 0x14#8 ∧ s.itd.trapPhase = .trapped)
        ∨ (w.extractLsb' 32 8 = 0x14#8 ∧ s.itd.trapPhase ≠ .trapped)
        ∨ (w.extractLsb' 32 8 = 0x15#8 ∧ s.itd.trapPhase ≠ .inHandler) ↔ Raises i s .badContext)

/-- For admissible parameters: irq_of of every recognized identity fits the low byte and id_of gives the identity back;
id_of of every other byte is UNKNOWN; and ENABLE, DISABLE and CLEAR of UNKNOWN, in a block that has not halted, is
installed and is not in TRAPPED, raise F_UNKNOWN_IRQ. (rule R233.) -/
def Obligations.IdentityBijection : Prop :=
  ∀ p : Params, p.ok = true →
    (∀ id : IrqId, irqOf p id < 256 ∧ idOf p (BitVec.ofNat 8 (irqOf p id)) = some id)
    ∧ (∀ n : Byte, (∀ id : IrqId, irqOf p id ≠ n.toNat) → idOf p n = none)
    ∧ (∀ s : State, s.port.halted = false → s.itd.trapPhase ≠ .trapped → s.itd.dispState ≠ .uninstalled →
        ∀ i ∈ [Instr.enable 0xFF#32, .disable 0xFF#32, .clear 0xFF#32], Raises i s .unknownIrq)

/-- For every number of earlier choices and every non-empty list of candidates the arbiter offers some member of the
list, and a list with one member has that member offered; from an empty list it offers nothing. The free choice at
the count of earlier choices is the model's choice (log 4). (rule R262.) -/
def Obligations.ArbiterOffersCandidate : Prop :=
  ∀ (draws : Nat) (cand : List Nat),
    (cand = [] → arbSelect draws cand = none)
    ∧ (cand ≠ [] → ∃ n, n ∈ cand ∧ arbSelect draws cand = some n)
    ∧ (∀ n, cand = [n] → arbSelect draws cand = some n)

/-- For a state with admissible parameters and canonical memory: MemWrite of one byte to a slot sets the slot's bit to
v[0], ignores v[7:1] and changes no other latch; MemWrite of an aligned word in one region sets the four bits to
v[0], v[8], v[16], v[24], and MemRead of that word then gives those four bits little-endian. (rule R75, rule R76,
rule R77, rule R79.) -/
def Obligations.MemoryReadsBack : Prop :=
  ∀ (s : State) (addr : Addr) (v : Word), s.params.ok = true → Memory.wf s.mem = true →
    (isSlot s.params addr.toNat = true →
      ∃ t, s.memWrite addr 1 v = some t ∧ t.memRead addr 1 = some (if v.getLsbD 0 then 1#32 else 0#32)
        ∧ ∀ x, x ≠ addr.toNat → t.latchAt x = s.latchAt x)
    ∧ (isSlotWord s.params addr.toNat = true →
      ∃ t, s.memWrite addr 4 v = some t ∧ t.memRead addr 4 = some (v &&& 0x01010101#32)
        ∧ ∀ x, x < addr.toNat ∨ addr.toNat + 4 ≤ x → t.latchAt x = s.latchAt x)

/-- For every state whose cell list is canonical and lists only slots that exist with their one bit set, every step that
answers a next state leaves it so. The canonical form (rising addresses, no listed byte 0) is the model's choice
(log 7). (rule R74, rule R76, rule R77, rule R78.) -/
def Obligations.MemoryCanonicalKept : Prop :=
  ∀ s t : State, MemoryCanonical s → step s = .next t → MemoryCanonical t

/-- For every state in which a block that has not halted is at a point its sequence rules allow (state, poll count,
latched values, root clock, wait in progress, and the entries of clk_trace made so far), every step that answers a
next state leaves such a state. The request, the completion signal and the turns of a wait in progress, part of the
invariant, are the model's choice (log 9). (rule R206, rule R177, rule R203, rule R320, rule R317, rule R171.) -/
def Obligations.SequenceOkKept : Prop :=
  ∀ s t : State, SequenceOk s → step s = .next t → SequenceOk t

/-- For every state that satisfies the sequence invariant and in which an existing descriptor describes the clock tree
(root_sel as clk_pll_en says, each divisor register times its frequency equal to the system frequency), every step
that answers a next state leaves the descriptor true. (rule R204, rule R206, rule R32.) -/
def Obligations.DescriptorTrueKept : Prop :=
  ∀ s t : State, SequenceOk s → DescriptorTrue s → step s = .next t → DescriptorTrue t

/-- For every state that satisfies the sequence invariant and has a descriptor, every step that answers a next state,
but the hardware reset, leaves all six descriptor registers and every CT field as they were. That the reset is an
entry of the schedule is the model's choice (log 5). (rule R161, rule R32.) -/
def Obligations.FrozenImmutable : Prop :=
  ∀ s t : State, SequenceOk s → s.clocks.valid = true → (∀ rest, s.env.sched ≠ .reset :: rest) →
    step s = .next t → t.clocks = s.clocks ∧ t.ct = s.ct

/-- For every state in which handler_sel is one-hot exactly inside a handler, a trap is in progress only after INSTALL,
global_ie is 1 exactly after INSTALL, and INSTALL runs only while UNINSTALLED, every step that answers a next state
leaves it so; and for every state in which each optional configuration register holds 0 when absent and not 0 when
present, likewise. The turns of INSTALL are the model's choice (log 10). (rule R27, rule R47, rule R51, rule R224,
rule R20, rule R108.) -/
def Obligations.RegisterInvariantsKept : Prop :=
  (∀ s t : State, DispatcherOk s → step s = .next t → DispatcherOk t)
    ∧ (∀ s t : State, BuilderOk s → step s = .next t → BuilderOk t)

/-- For every state with canonical memory and consistent dispatcher registers in which the slots INSTALL has swept are
disabled and after INSTALL only recognized slots are enabled, every step that answers a next state leaves it so. The
turns of INSTALL are the model's choice (log 10), as is the canonical form of the memory (log 7). (rule R261, rule
R224, rule R225.) -/
def Obligations.EnableBitsOkKept : Prop :=
  ∀ s t : State, MemoryCanonical s → DispatcherOk s → EnableBitsOk s → step s = .next t → EnableBitsOk t

/-- At State.reset the memory is canonical, the dispatcher and its enable bits are consistent, the configuration
registers are well-formed, the sequence invariant holds and the descriptor, which does not exist, is true; and the
parameters are admissible. The empty memory is the model's choice (log 7), as are the zeros of the delay unit's
request, completion signal and wait bit (log 6, log 9) and the default parameters (log 1). (rule R55, rule R301.) -/
def Obligations.InvariantsAtReset : Prop :=
  MemoryCanonical State.reset ∧ DispatcherOk State.reset ∧ EnableBitsOk State.reset ∧ BuilderOk State.reset
    ∧ SequenceOk State.reset ∧ DescriptorTrue State.reset ∧ State.reset.params.ok = true

/-- Whatever instruction is run to a next state: a clock command, a delay-unit request and a micro-step leave the
dispatcher's registers, every byte of memory, mem_trace and call_trace as they were; a dispatcher command leaves the
configuration registers, the sequencer, every CT field, the descriptor, the delay unit and clk_trace as they were; a
clock command and a delay-unit request write no CT field; no instruction changes the parameters, the schedule or the
counter cyc. (rule R155, rule R70, rule R44, rule R83.) -/
def Obligations.HalvesIsolated : Prop :=
  ∀ (i : Instr) (s t : State), exec i s = .next t →
    (agentOf i ≠ .dispatcherCommand →
        t.itd = s.itd ∧ (∀ x, Memory.read t.mem x = Memory.read s.mem x)
          ∧ t.trace.mem = s.trace.mem ∧ t.trace.call = s.trace.call)
    ∧ (agentOf i = .dispatcherCommand →
        t.cfg = s.cfg ∧ t.seq = s.seq ∧ t.ct = s.ct ∧ t.clocks = s.clocks ∧ t.du = s.du
          ∧ t.trace.clk = s.trace.clk)
    ∧ (agentOf i ≠ .sequencer → t.ct = s.ct ∧ t.clocks = s.clocks)
    ∧ t.params = s.params ∧ t.env.sched = s.env.sched ∧ t.du.cyc = s.du.cyc

/-- Whatever instruction is run to a next state: each of the four configuration registers changes only by its own CFG
command, S_DONE and S_TIMEOUT; each of the sequencer's registers and latches, each CT field and the descriptor only
by the micro-steps its rule names (seq_pc and seq_busy also by FREEZE); disp_state only by INSTALL and ENABLE;
trap_phase, handler_sel and handler_frame only by DISPATCH and TRET; global_ie, tvec and the micro-step counter of
INSTALL only by INSTALL; cause, trap_pc and cyc by none; with admissible parameters and canonical memory an enable
bit is set only by ENABLE and cleared only by DISABLE and INSTALL, a pending bit is set by none and cleared only by
CLEAR and INSTALL; the response only by a command, S_DONE, S_TIMEOUT or a fatal, halted and fault_code only by a
fatal; wait_start and wait_n only by the waits; clk_trace only by micro-steps and delay-unit requests, mem_trace
only by INSTALL, ENABLE, DISABLE and CLEAR, call_trace only by DISPATCH. (The counter of INSTALL's micro-steps is
the model's form, log 10; so is the canonical form of the memory, log 7; that a wait of each kind writes the
registers of WAIT_CYCLES, log 9.) (rule R20, 10_state.md section 2 (R23, R25, R26, R27), 10_state.md section 3 (R28,
R29, R30), 10_state.md section 4, descriptor and ports (R32, R33, R34), 10_state.md section 4, clock-tree fields
(R36 to R43), rule R44, 10_state.md section 4, dispatcher (R47, R48, R49, R51, R52), rule R50, 10_state.md section 6
(R45, R46), rule R53.) -/
def Obligations.SoleWriters : Prop :=
  ∀ (i : Instr) (s t : State), exec i s = .next t →
    BuilderWriters i s t ∧ SequencerWriters i s t ∧ ClockTreeWriters i s t ∧ DispatcherWriters i s t
      ∧ OutputWriters i s t ∧ (s.params.ok = true → Memory.wf s.mem = true → LatchWriters i s t)

/-- If a step answers a next state in TRAPPED from a state that was not, then the block had not halted, was installed,
ran no sequence and no command and was in IDLE; the cause is either that of a slot enabled and pending with
global_ie 1, or the injected one, which needs global_ie if its flag is set; and trap_pc is tvec. And a step that
changes cause or trap_pc, other than the reset, starts in IDLE and enters TRAPPED. That traps and the reset are
entries of the schedule is the model's choice (log 5). (rule R263, rule R264, rule R265, rule R268, rule R269, rule
R49, rule R52.) -/
def Obligations.TrapEntryOnlyWhen : Prop :=
  ∀ s t : State, step s = .next t →
    (s.itd.trapPhase ≠ .trapped → t.itd.trapPhase = .trapped →
      s.port.halted = false ∧ s.itd.dispState ≠ .uninstalled ∧ s.seq.busy = false ∧ s.port.cmd = none
        ∧ s.itd.trapPhase = .idle ∧ t.itd.trapPc = s.itd.tvec
        ∧ ((s.itd.globalIe = true ∧ ∃ n, n < s.params.nslot ∧ s.en n = true ∧ s.pend n = true
              ∧ t.itd.cause = 0x80000000#32 ||| BitVec.ofNat 32 n)
            ∨ (∃ v rest, s.env.sched = .trap v :: rest ∧ t.itd.cause = v
                ∧ (v.getLsbD 31 = true → s.itd.globalIe = true))))
    ∧ ((∀ rest, s.env.sched ≠ .reset :: rest) → t.itd.cause ≠ s.itd.cause ∨ t.itd.trapPc ≠ s.itd.trapPc →
        s.itd.trapPhase = .idle ∧ t.itd.trapPhase = .trapped)

/-- A step that answers a next state does so only under parameters that meet every constraint, and leaves them as they
were; under any other parameters the step is refused. Holding the parameters in the state and refusing a set that
breaks a constraint at each step is the model's choice (log 1). (rule R7, rule R56.) -/
def Obligations.ParametersFixed : Prop :=
  ∀ s : State,
    (∀ t, step s = .next t → s.params.ok = true ∧ t.params = s.params)
    ∧ (s.params.ok = false → step s = .refused .badParameters)

/-- With admissible parameters, a block that has not halted and holds a WAIT_CYCLES(n) request not yet begun, n not 0,
given one turn, then k ticks (k below 2^64), then one turn: if n is at most k the wait is over, with D(n) appended
to clk_trace and the request withdrawn; else it still stands and clk_trace is as it was. Whatever the counter's
start. The first turn that captures and tests and the one test of each later turn are the model's choice (log 9), as
are turns and ticks as entries of the schedule (log 5). (rule R133, rule R132, rule R318, rule R130.) -/
def Obligations.WaitEndsOnCount : Prop :=
  ∀ (s : State) (n : Cycles) (k : Nat), s.params.ok = true → s.port.halted = false → n ≠ 0#64 → k < 2 ^ 64 →
    s.du.req = some (duWord 2#3 n) → s.du.waiting = false → s.du.done = false →
    s.env.sched = .own :: (List.replicate k .tick ++ [.own]) →
    ∃ t, Host.Core.run Sys2Proof.core (k + 2) s = .next t
      ∧ (n.toNat ≤ k → t.du.done = true ∧ t.du.req = none ∧ t.du.waiting = false
          ∧ t.trace.clk = s.trace.clk ++ [.d n])
      ∧ (k < n.toNat → t.du.done = false ∧ t.du.req = some (duWord 2#3 n) ∧ t.du.waiting = true
          ∧ t.trace.clk = s.trace.clk)

/-- With admissible parameters and canonical memory, from any state that has not halted, with no delay request and no
micro-step, not in TRAPPED, UNINSTALLED and not inside INSTALL, with an INSTALL command on the port and nothing
scheduled: 2 * BITMAP_WORDS + 3 steps end with tvec the operand, global_ie 1, VECTOR_INSTALLED, (OK, 0), every
enable and every pending bit 0, every byte outside the two regions as before, the word writes appended to mem_trace
in order, and the clock half as before. That these are 2 * BITMAP_WORDS + 3 turns is the model's choice (log 10), as
are the turns an empty schedule gives (log 5) and the command's word on the port (log 11). (rule R223, rule R224,
rule R26, rule R50.) -/
def Obligations.InstallRuns : Prop :=
  ∀ (s : State) (arg : Word), s.params.ok = true → Memory.wf s.mem = true → s.port.halted = false →
    s.env.sched = [] → s.du.req = none → s.seq.pc = .idle → s.port.cmd = some (0x10#8 ++ arg) →
    s.itd.install = none → s.itd.dispState = .uninstalled → s.itd.trapPhase ≠ .trapped →
    ∃ t, Host.Core.run Sys2Proof.core (2 * s.params.bitmapWords + 3) s = .next t
      ∧ t.itd = { s.itd with tvec := arg, globalIe := true, dispState := .vectorInstalled, install := none }
      ∧ t.port = okPort s 0#32
      ∧ (∀ n, n < s.params.nslot → t.en n = false ∧ t.pend n = false)
      ∧ (∀ x, isSlot s.params x = false → Memory.read t.mem x = Memory.read s.mem x)
      ∧ t.trace.mem = s.trace.mem
          ++ (List.range s.params.bitmapWords).map
              (fun w => ⟨s.params.ctrlBase + s.params.enOff + BitVec.ofNat 32 (4 * w), 4, 0#32⟩)
          ++ (List.range s.params.bitmapWords).map
              (fun w => ⟨s.params.ctrlBase + s.params.pendOff + BitVec.ofNat 32 (4 * w), 4, 0#32⟩)
      ∧ t.cfg = s.cfg ∧ t.seq = s.seq ∧ t.ct = s.ct ∧ t.clocks = s.clocks ∧ t.du = s.du
      ∧ t.trace.clk = s.trace.clk ∧ t.env = s.env

/-- With admissible parameters, from any state that has not halted, has the token, is idle, not in TRAPPED, with no
crystal configured, an RC selection, divisible targets, FREEZE on the port and nothing scheduled: seven steps end
FROZEN with the descriptor of the RC oscillator, the two divider registers written, root_sel 0, clk_trace longer by
exactly the three writes of the RC path, and (OK, 0). That these are seven turns, left alone under an empty
schedule, is the model's choice (log 5), as is the command's word on the port (log 11). (rule R206, rule R170, rule
R171, rule R173, rule R174, rule R199, rule R200, rule R201, rule R204.) -/
def Obligations.RcPathRuns : Prop :=
  ∀ (s : State) (e : SysclkEntry) (u v : Nat × Hz), s.params.ok = true → s.port.halted = false →
    s.env.sched = [] → s.du.req = none → s.seq.pc = .idle → s.port.cmd = some 0x0500000000#40 →
    s.itd.trapPhase ≠ .trapped → s.seq.state = .unconfigured ∨ s.seq.state = .xtalTimeout →
    s.cfg.xtal = ⟨false, 0#32⟩ → s.params.sysclkEntry s.cfg.tgtSysclk = some e → e.src = .rc →
    divcheck e.hz s.cfg.tgtUart s.params.uartDivMax = some u →
    divcheck e.hz s.cfg.tgtSpi s.params.spiDivMax = some v →
    ∃ t, Host.Core.run Sys2Proof.core 7 s = .next t
      ∧ t.seq.state = .frozen ∧ t.seq.pc = .idle ∧ t.seq.busy = false
      ∧ t.seq.coreFreq = s.params.fRcHz ∧ e.hz = s.params.fRcHz
      ∧ t.clocks = { valid := true, sysclkHz := e.hz, uartHz := u.2, spiHz := v.2, xtal := ⟨false, 0#32⟩, pllEn := false }
      ∧ t.ct = { s.ct with rootSel := 0#1, uartDiv := BitVec.ofNat 8 u.1, spiDiv := BitVec.ofNat 8 v.1 }
      ∧ t.trace.clk = s.trace.clk ++ [.w .rootSel 0, .w .uartDiv u.1, .w .spiDiv v.1]
      ∧ t.cfg = .fresh s.params ∧ t.port = okPort s 0#32 ∧ t.itd = s.itd ∧ t.mem = s.mem

/-- From every state that satisfies the sequence invariant, after any number of steps that ends at S_DONE, not halted,
with a crystal configured: clk_trace ends with the complete list of the PLL path, for some number k from 1 to
XTAL_POLL_MAX of polls, the selected table entry's frequency and tap, the crystal's PLL parameters, and divisors du
and ds that divide the target frequency exactly and in range (1 <= du <= UART_DIV_MAX, 1 <= ds <= SPI_DIV_MAX), each
into the frequency asked for, or 1 where none was asked for. The waits' request and completion signal, part of the
sequence invariant, are the model's choice (log 9). (rule R206, rule R177, rule R198, rule R202.) -/
def Obligations.PllPathTrace : Prop :=
  ∀ (s t : State) (m : Nat), SequenceOk s → Host.Core.run Sys2Proof.core m s = .next t →
    t.port.halted = false → t.seq.pc = .done → t.cfg.xtal.valid = true → s.params.ok = true →
    ∃ (before : List ClkEvent) (k : Nat) (e : SysclkEntry) (tap : BitVec 3) (pll : PllEntry) (du ds : Nat),
      1 ≤ k ∧ k ≤ t.params.xtalPollMax.toNat
      ∧ t.params.sysclkEntry t.cfg.tgtSysclk = some e ∧ e.src = .tap tap
      ∧ t.params.pllEntry t.cfg.xtal.hz = some pll
      ∧ du * t.seq.uartHzC.toNat = e.hz.toNat ∧ ds * t.seq.spiHzC.toNat = e.hz.toNat
      ∧ 1 ≤ du ∧ du ≤ t.params.uartDivMax ∧ 1 ≤ ds ∧ ds ≤ t.params.spiDivMax
      ∧ (t.cfg.tgtUart.valid = true → t.seq.uartHzC = t.cfg.tgtUart.hz) ∧ (t.cfg.tgtUart.valid = false → du = 1)
      ∧ (t.cfg.tgtSpi.valid = true → t.seq.spiHzC = t.cfg.tgtSpi.hz) ∧ (t.cfg.tgtSpi.valid = false → ds = 1)
      ∧ t.trace.clk = before ++ [.w .rootSel 0, .w .xtalPu 1]
        ++ (List.replicate (k - 1)
              [ClkEvent.d (BitVec.ofNat 64 (t.params.xtalPollUs.toNat * t.params.fRcHz.toNat / 1000000)), .r false]).flatten
        ++ [.d (BitVec.ofNat 64 (t.params.xtalPollUs.toNat * t.params.fRcHz.toNat / 1000000)), .r true]
        ++ [.w .pllFb pll.triple.fb.toNat, .w .pllCp pll.triple.cp.toNat, .w .pllPd pll.triple.pd.toNat]
        ++ [.w .pllBiasEn 1, .d (BitVec.ofNat 64 (t.params.tBiasUs.toNat * t.params.fRcHz.toNat / 1000000)),
            .w .pllCoreEn 1, .d (BitVec.ofNat 64 (t.params.tCoreUs.toNat * t.params.fRcHz.toNat / 1000000)),
            .w .pllCpdivEn 1, .d (BitVec.ofNat 64 (t.params.tCpdivUs.toNat * t.params.fRcHz.toNat / 1000000)),
            .w .pllSdmRst 1, .d (BitVec.ofNat 64 (t.params.tSdmPulseUs.toNat * t.params.fRcHz.toNat / 1000000)),
            .w .pllSdmRst 0, .d (BitVec.ofNat 64 (t.params.tSdmUs.toNat * t.params.fRcHz.toNat / 1000000)),
            .w .pllFbdvRst 1, .d (BitVec.ofNat 64 (t.params.tFbdvPulseUs.toNat * t.params.fRcHz.toNat / 1000000)),
            .w .pllFbdvRst 0, .d (BitVec.ofNat 64 (t.params.tFbdvUs.toNat * t.params.fRcHz.toNat / 1000000))]
        ++ [.w .pllTapEn (2 ^ t.params.nTaps - 1), .w .pllSelEn 1, .w .pllTapSel tap.toNat, .w .hclkDiv 1,
            .w .bclkDiv ((e.hz.toNat + t.params.bclkMaxHz.toNat - 1) / t.params.bclkMaxHz.toNat)]
        ++ (if t.params.icacheWsThresholdHz.toNat < e.hz.toNat then [.w .icacheWs 1] else [])
        ++ [.w .rootSel 1, .d (BitVec.ofNat 64 (t.params.tSettleUs.toNat * e.hz.toNat / 1000000)),
            .w .uartDiv du, .w .spiDiv ds]
end

