-- ==== Sys2Proof/Laws/Decode.lean ====
section
/-! SUPPORT. The fields of an encoded word are the fields it was built from, and the words a command, a request and a
micro-step decode to, by kind. -/

namespace Sys2Proof

theorem opcodeOf_append (op : BitVec 8) (arg : Word) : opcodeOf (op ++ arg) = op := by
  unfold opcodeOf
  ext i hi
  rw [BitVec.getElem_extractLsb']
  refine (BitVec.getLsbD_append ..).trans ?_
  simp [BitVec.getLsbD_eq_getElem hi]

theorem argOf_append (op : BitVec 8) (arg : Word) : argOf (op ++ arg) = arg := by
  unfold argOf
  ext i hi
  rw [BitVec.getElem_extractLsb', Nat.zero_add]
  refine (BitVec.getLsbD_append ..).trans ?_
  simp [hi]

theorem duOpOf_duWord (op : BitVec 3) (a : BitVec 64) : duOpOf (duWord op a) = op := by
  unfold duOpOf duWord
  ext i hi
  rw [BitVec.getElem_extractLsb']
  refine (BitVec.getLsbD_append ..).trans ?_
  simp [BitVec.getLsbD_eq_getElem hi]

theorem duArgOf_duWord (op : BitVec 3) (a : BitVec 64) : duArgOf (duWord op a) = a := by
  unfold duArgOf duWord
  ext i hi
  rw [BitVec.getElem_extractLsb', Nat.zero_add]
  refine (BitVec.getLsbD_append ..).trans ?_
  simp [hi]

/-- A zero-extended duration has nothing in bits 63 to 32 (30_encoding.md rule R111). -/
theorem duration_high (d : BitVec 32) : (d.setWidth 64).extractLsb' 32 32 = 0#32 := by
  ext i hi
  simp [BitVec.getLsbD_setWidth]

theorem duration_low (d : BitVec 32) : (d.setWidth 64).extractLsb' 0 32 = d := by
  ext i hi
  simp only [BitVec.getElem_extractLsb', BitVec.getLsbD_setWidth]
  have h : i < 64 := by omega
  simp [h, hi]

theorem decodeDuration_setWidth (d : BitVec 32) (make : BitVec 32 → Instr) :
    decodeDuration (d.setWidth 64) make = .ok (make d) := by
  simp only [decodeDuration, duration_high, duration_low, if_true]

/-- A standing WAIT_MICROS request decodes to WAIT_MICROS of its duration. -/
theorem decode_waitMicros (us : BitVec 32) :
    decode (.delay (duWord 3#3 (us.setWidth 64))) = .ok (.waitMicros us) := by
  simp [decode, decodeDelay, duOpOf_duWord, duArgOf_duWord, decodeDuration_setWidth]

end Sys2Proof
end

