-- ==== Sys2Proof/Laws/State.lean ====
section
/-! SUPPORT. What each named update of the state does to each field: one lemma per update and field, true by definition,
so that no proof unfolds a record update. A field an update does not name is unchanged. -/

namespace Sys2Proof.Machine

/-! ### `State.respond` -/

@[simp] theorem State.respond_params (s : State) (st : RspStatus) (d : Word) : (s.respond st d).params = s.params := rfl
@[simp] theorem State.respond_cfg (s : State) (st : RspStatus) (d : Word) : (s.respond st d).cfg = s.cfg := rfl
@[simp] theorem State.respond_seq (s : State) (st : RspStatus) (d : Word) : (s.respond st d).seq = s.seq := rfl
@[simp] theorem State.respond_ct (s : State) (st : RspStatus) (d : Word) : (s.respond st d).ct = s.ct := rfl
@[simp] theorem State.respond_clocks (s : State) (st : RspStatus) (d : Word) : (s.respond st d).clocks = s.clocks := rfl
@[simp] theorem State.respond_du (s : State) (st : RspStatus) (d : Word) : (s.respond st d).du = s.du := rfl
@[simp] theorem State.respond_itd (s : State) (st : RspStatus) (d : Word) : (s.respond st d).itd = s.itd := rfl
@[simp] theorem State.respond_mem (s : State) (st : RspStatus) (d : Word) : (s.respond st d).mem = s.mem := rfl
@[simp] theorem State.respond_port (s : State) (st : RspStatus) (d : Word) :
    (s.respond st d).port = { s.port with rspStatus := st, rspData := d, cmd := none } := rfl
@[simp] theorem State.respond_trace (s : State) (st : RspStatus) (d : Word) : (s.respond st d).trace = s.trace := rfl
@[simp] theorem State.respond_env (s : State) (st : RspStatus) (d : Word) : (s.respond st d).env = s.env := rfl

/-! ### `State.fatal` -/

@[simp] theorem State.fatal_params (s : State) (c : FaultCode) : (s.fatal c).params = s.params := rfl
@[simp] theorem State.fatal_cfg (s : State) (c : FaultCode) : (s.fatal c).cfg = s.cfg := rfl
@[simp] theorem State.fatal_seq (s : State) (c : FaultCode) : (s.fatal c).seq = s.seq := rfl
@[simp] theorem State.fatal_ct (s : State) (c : FaultCode) : (s.fatal c).ct = s.ct := rfl
@[simp] theorem State.fatal_clocks (s : State) (c : FaultCode) : (s.fatal c).clocks = s.clocks := rfl
@[simp] theorem State.fatal_du (s : State) (c : FaultCode) : (s.fatal c).du = s.du := rfl
@[simp] theorem State.fatal_itd (s : State) (c : FaultCode) : (s.fatal c).itd = s.itd := rfl
@[simp] theorem State.fatal_mem (s : State) (c : FaultCode) : (s.fatal c).mem = s.mem := rfl
@[simp] theorem State.fatal_port (s : State) (c : FaultCode) :
    (s.fatal c).port =
      { cmd := none, rspStatus := .fatal, rspData := c.code.setWidth 32, halted := true, faultCode := c } :=
  rfl
@[simp] theorem State.fatal_trace (s : State) (c : FaultCode) : (s.fatal c).trace = s.trace := rfl
@[simp] theorem State.fatal_env (s : State) (c : FaultCode) : (s.fatal c).env = s.env := rfl

/-! ### `State.clkEvent` -/

@[simp] theorem State.clkEvent_params (s : State) (e : ClkEvent) : (s.clkEvent e).params = s.params := rfl
@[simp] theorem State.clkEvent_cfg (s : State) (e : ClkEvent) : (s.clkEvent e).cfg = s.cfg := rfl
@[simp] theorem State.clkEvent_seq (s : State) (e : ClkEvent) : (s.clkEvent e).seq = s.seq := rfl
@[simp] theorem State.clkEvent_ct (s : State) (e : ClkEvent) : (s.clkEvent e).ct = s.ct := rfl
@[simp] theorem State.clkEvent_clocks (s : State) (e : ClkEvent) : (s.clkEvent e).clocks = s.clocks := rfl
@[simp] theorem State.clkEvent_du (s : State) (e : ClkEvent) : (s.clkEvent e).du = s.du := rfl
@[simp] theorem State.clkEvent_itd (s : State) (e : ClkEvent) : (s.clkEvent e).itd = s.itd := rfl
@[simp] theorem State.clkEvent_mem (s : State) (e : ClkEvent) : (s.clkEvent e).mem = s.mem := rfl
@[simp] theorem State.clkEvent_port (s : State) (e : ClkEvent) : (s.clkEvent e).port = s.port := rfl
@[simp] theorem State.clkEvent_trace (s : State) (e : ClkEvent) :
    (s.clkEvent e).trace = { s.trace with clk := s.trace.clk ++ [e] } := rfl
@[simp] theorem State.clkEvent_env (s : State) (e : ClkEvent) : (s.clkEvent e).env = s.env := rfl

/-! ### `State.ctWrite` -/

@[simp] theorem State.ctWrite_params (s : State) (f : CtField) (v : Nat) : (s.ctWrite f v).params = s.params := rfl
@[simp] theorem State.ctWrite_cfg (s : State) (f : CtField) (v : Nat) : (s.ctWrite f v).cfg = s.cfg := rfl
@[simp] theorem State.ctWrite_seq (s : State) (f : CtField) (v : Nat) : (s.ctWrite f v).seq = s.seq := rfl
@[simp] theorem State.ctWrite_ct (s : State) (f : CtField) (v : Nat) : (s.ctWrite f v).ct = s.ct.set f v := rfl
@[simp] theorem State.ctWrite_clocks (s : State) (f : CtField) (v : Nat) : (s.ctWrite f v).clocks = s.clocks := rfl
@[simp] theorem State.ctWrite_du (s : State) (f : CtField) (v : Nat) : (s.ctWrite f v).du = s.du := rfl
@[simp] theorem State.ctWrite_itd (s : State) (f : CtField) (v : Nat) : (s.ctWrite f v).itd = s.itd := rfl
@[simp] theorem State.ctWrite_mem (s : State) (f : CtField) (v : Nat) : (s.ctWrite f v).mem = s.mem := rfl
@[simp] theorem State.ctWrite_port (s : State) (f : CtField) (v : Nat) : (s.ctWrite f v).port = s.port := rfl
@[simp] theorem State.ctWrite_trace (s : State) (f : CtField) (v : Nat) :
    (s.ctWrite f v).trace = { s.trace with clk := s.trace.clk ++ [.w f v] } := rfl
@[simp] theorem State.ctWrite_env (s : State) (f : CtField) (v : Nat) : (s.ctWrite f v).env = s.env := rfl

/-! ### `State.memEvent` -/

@[simp] theorem State.memEvent_params (s : State) (e : MemEvent) : (s.memEvent e).params = s.params := rfl
@[simp] theorem State.memEvent_cfg (s : State) (e : MemEvent) : (s.memEvent e).cfg = s.cfg := rfl
@[simp] theorem State.memEvent_seq (s : State) (e : MemEvent) : (s.memEvent e).seq = s.seq := rfl
@[simp] theorem State.memEvent_ct (s : State) (e : MemEvent) : (s.memEvent e).ct = s.ct := rfl
@[simp] theorem State.memEvent_clocks (s : State) (e : MemEvent) : (s.memEvent e).clocks = s.clocks := rfl
@[simp] theorem State.memEvent_du (s : State) (e : MemEvent) : (s.memEvent e).du = s.du := rfl
@[simp] theorem State.memEvent_itd (s : State) (e : MemEvent) : (s.memEvent e).itd = s.itd := rfl
@[simp] theorem State.memEvent_mem (s : State) (e : MemEvent) : (s.memEvent e).mem = s.mem := rfl
@[simp] theorem State.memEvent_port (s : State) (e : MemEvent) : (s.memEvent e).port = s.port := rfl
@[simp] theorem State.memEvent_trace (s : State) (e : MemEvent) :
    (s.memEvent e).trace = { s.trace with mem := s.trace.mem ++ [e] } := rfl
@[simp] theorem State.memEvent_env (s : State) (e : MemEvent) : (s.memEvent e).env = s.env := rfl

/-! ### `State.setLatch` -/

@[simp] theorem State.setLatch_params (s : State) (a : Nat) (b : Bool) : (s.setLatch a b).params = s.params := rfl
@[simp] theorem State.setLatch_cfg (s : State) (a : Nat) (b : Bool) : (s.setLatch a b).cfg = s.cfg := rfl
@[simp] theorem State.setLatch_seq (s : State) (a : Nat) (b : Bool) : (s.setLatch a b).seq = s.seq := rfl
@[simp] theorem State.setLatch_ct (s : State) (a : Nat) (b : Bool) : (s.setLatch a b).ct = s.ct := rfl
@[simp] theorem State.setLatch_clocks (s : State) (a : Nat) (b : Bool) : (s.setLatch a b).clocks = s.clocks := rfl
@[simp] theorem State.setLatch_du (s : State) (a : Nat) (b : Bool) : (s.setLatch a b).du = s.du := rfl
@[simp] theorem State.setLatch_itd (s : State) (a : Nat) (b : Bool) : (s.setLatch a b).itd = s.itd := rfl
@[simp] theorem State.setLatch_mem (s : State) (a : Nat) (b : Bool) :
    (s.setLatch a b).mem = Memory.write s.mem a (slotByte b) := rfl
@[simp] theorem State.setLatch_port (s : State) (a : Nat) (b : Bool) : (s.setLatch a b).port = s.port := rfl
@[simp] theorem State.setLatch_trace (s : State) (a : Nat) (b : Bool) : (s.setLatch a b).trace = s.trace := rfl
@[simp] theorem State.setLatch_env (s : State) (a : Nat) (b : Bool) : (s.setLatch a b).env = s.env := rfl

/-! ### `State.tick` -/

@[simp] theorem State.tick_params (s : State) : s.tick.params = s.params := rfl
@[simp] theorem State.tick_cfg (s : State) : s.tick.cfg = s.cfg := rfl
@[simp] theorem State.tick_seq (s : State) : s.tick.seq = s.seq := rfl
@[simp] theorem State.tick_ct (s : State) : s.tick.ct = s.ct := rfl
@[simp] theorem State.tick_clocks (s : State) : s.tick.clocks = s.clocks := rfl
@[simp] theorem State.tick_du (s : State) : s.tick.du = { s.du with cyc := s.du.cyc + 1#64 } := rfl
@[simp] theorem State.tick_itd (s : State) : s.tick.itd = s.itd := rfl
@[simp] theorem State.tick_mem (s : State) : s.tick.mem = s.mem := rfl
@[simp] theorem State.tick_port (s : State) : s.tick.port = s.port := rfl
@[simp] theorem State.tick_trace (s : State) : s.tick.trace = s.trace := rfl
@[simp] theorem State.tick_env (s : State) : s.tick.env = s.env := rfl

/-! ### `State.beginWait` -/

@[simp] theorem State.beginWait_params (s : State) (n : Cycles) : (s.beginWait n).params = s.params := rfl
@[simp] theorem State.beginWait_cfg (s : State) (n : Cycles) : (s.beginWait n).cfg = s.cfg := rfl
@[simp] theorem State.beginWait_seq (s : State) (n : Cycles) : (s.beginWait n).seq = s.seq := rfl
@[simp] theorem State.beginWait_ct (s : State) (n : Cycles) : (s.beginWait n).ct = s.ct := rfl
@[simp] theorem State.beginWait_clocks (s : State) (n : Cycles) : (s.beginWait n).clocks = s.clocks := rfl
@[simp] theorem State.beginWait_du (s : State) (n : Cycles) :
    (s.beginWait n).du = { s.du with waitStart := s.du.cyc, waitN := n, waiting := true } := rfl
@[simp] theorem State.beginWait_itd (s : State) (n : Cycles) : (s.beginWait n).itd = s.itd := rfl
@[simp] theorem State.beginWait_mem (s : State) (n : Cycles) : (s.beginWait n).mem = s.mem := rfl
@[simp] theorem State.beginWait_port (s : State) (n : Cycles) : (s.beginWait n).port = s.port := rfl
@[simp] theorem State.beginWait_trace (s : State) (n : Cycles) : (s.beginWait n).trace = s.trace := rfl
@[simp] theorem State.beginWait_env (s : State) (n : Cycles) : (s.beginWait n).env = s.env := rfl

/-! ### `State.endWait` -/

@[simp] theorem State.endWait_params (s : State) : s.endWait.params = s.params := rfl
@[simp] theorem State.endWait_cfg (s : State) : s.endWait.cfg = s.cfg := rfl
@[simp] theorem State.endWait_seq (s : State) : s.endWait.seq = s.seq := rfl
@[simp] theorem State.endWait_ct (s : State) : s.endWait.ct = s.ct := rfl
@[simp] theorem State.endWait_clocks (s : State) : s.endWait.clocks = s.clocks := rfl
@[simp] theorem State.endWait_du (s : State) :
    s.endWait.du = { s.du with waiting := false, done := true, req := none } := rfl
@[simp] theorem State.endWait_itd (s : State) : s.endWait.itd = s.itd := rfl
@[simp] theorem State.endWait_mem (s : State) : s.endWait.mem = s.mem := rfl
@[simp] theorem State.endWait_port (s : State) : s.endWait.port = s.port := rfl
@[simp] theorem State.endWait_trace (s : State) :
    s.endWait.trace = { s.trace with clk := s.trace.clk ++ [.d s.du.waitN] } := rfl
@[simp] theorem State.endWait_env (s : State) : s.endWait.env = s.env := rfl

/-! ### `State.replyWith` -/

@[simp] theorem State.replyWith_params (s : State) (v : Cycles) : (s.replyWith v).params = s.params := rfl
@[simp] theorem State.replyWith_cfg (s : State) (v : Cycles) : (s.replyWith v).cfg = s.cfg := rfl
@[simp] theorem State.replyWith_seq (s : State) (v : Cycles) : (s.replyWith v).seq = s.seq := rfl
@[simp] theorem State.replyWith_ct (s : State) (v : Cycles) : (s.replyWith v).ct = s.ct := rfl
@[simp] theorem State.replyWith_clocks (s : State) (v : Cycles) : (s.replyWith v).clocks = s.clocks := rfl
@[simp] theorem State.replyWith_du (s : State) (v : Cycles) :
    (s.replyWith v).du = { s.du with reply := v, req := none } := rfl
@[simp] theorem State.replyWith_itd (s : State) (v : Cycles) : (s.replyWith v).itd = s.itd := rfl
@[simp] theorem State.replyWith_mem (s : State) (v : Cycles) : (s.replyWith v).mem = s.mem := rfl
@[simp] theorem State.replyWith_port (s : State) (v : Cycles) : (s.replyWith v).port = s.port := rfl
@[simp] theorem State.replyWith_trace (s : State) (v : Cycles) : (s.replyWith v).trace = s.trace := rfl
@[simp] theorem State.replyWith_env (s : State) (v : Cycles) : (s.replyWith v).env = s.env := rfl

/-! ### `State.requestMicros` -/

@[simp] theorem State.requestMicros_params (s : State) (us : BitVec 32) : (s.requestMicros us).params = s.params := rfl
@[simp] theorem State.requestMicros_cfg (s : State) (us : BitVec 32) : (s.requestMicros us).cfg = s.cfg := rfl
@[simp] theorem State.requestMicros_seq (s : State) (us : BitVec 32) : (s.requestMicros us).seq = s.seq := rfl
@[simp] theorem State.requestMicros_ct (s : State) (us : BitVec 32) : (s.requestMicros us).ct = s.ct := rfl
@[simp] theorem State.requestMicros_clocks (s : State) (us : BitVec 32) : (s.requestMicros us).clocks = s.clocks := rfl
@[simp] theorem State.requestMicros_du (s : State) (us : BitVec 32) :
    (s.requestMicros us).du = { s.du with req := some (duWord 3#3 (us.setWidth 64)) } := rfl
@[simp] theorem State.requestMicros_itd (s : State) (us : BitVec 32) : (s.requestMicros us).itd = s.itd := rfl
@[simp] theorem State.requestMicros_mem (s : State) (us : BitVec 32) : (s.requestMicros us).mem = s.mem := rfl
@[simp] theorem State.requestMicros_port (s : State) (us : BitVec 32) : (s.requestMicros us).port = s.port := rfl
@[simp] theorem State.requestMicros_trace (s : State) (us : BitVec 32) : (s.requestMicros us).trace = s.trace := rfl
@[simp] theorem State.requestMicros_env (s : State) (us : BitVec 32) : (s.requestMicros us).env = s.env := rfl

/-! ### `State.enterTrap` -/

@[simp] theorem State.enterTrap_params (s : State) (c : Word) : (s.enterTrap c).params = s.params := rfl
@[simp] theorem State.enterTrap_cfg (s : State) (c : Word) : (s.enterTrap c).cfg = s.cfg := rfl
@[simp] theorem State.enterTrap_seq (s : State) (c : Word) : (s.enterTrap c).seq = s.seq := rfl
@[simp] theorem State.enterTrap_ct (s : State) (c : Word) : (s.enterTrap c).ct = s.ct := rfl
@[simp] theorem State.enterTrap_clocks (s : State) (c : Word) : (s.enterTrap c).clocks = s.clocks := rfl
@[simp] theorem State.enterTrap_du (s : State) (c : Word) : (s.enterTrap c).du = s.du := rfl
@[simp] theorem State.enterTrap_itd (s : State) (c : Word) :
    (s.enterTrap c).itd = { s.itd with cause := c, trapPhase := .trapped, trapPc := s.itd.tvec } := rfl
@[simp] theorem State.enterTrap_mem (s : State) (c : Word) : (s.enterTrap c).mem = s.mem := rfl
@[simp] theorem State.enterTrap_port (s : State) (c : Word) : (s.enterTrap c).port = s.port := rfl
@[simp] theorem State.enterTrap_trace (s : State) (c : Word) : (s.enterTrap c).trace = s.trace := rfl
@[simp] theorem State.enterTrap_env (s : State) (c : Word) : (s.enterTrap c).env = s.env := rfl

/-! ### `State.leaveTrap` -/

@[simp] theorem State.leaveTrap_params (s : State) : s.leaveTrap.params = s.params := rfl
@[simp] theorem State.leaveTrap_cfg (s : State) : s.leaveTrap.cfg = s.cfg := rfl
@[simp] theorem State.leaveTrap_seq (s : State) : s.leaveTrap.seq = s.seq := rfl
@[simp] theorem State.leaveTrap_ct (s : State) : s.leaveTrap.ct = s.ct := rfl
@[simp] theorem State.leaveTrap_clocks (s : State) : s.leaveTrap.clocks = s.clocks := rfl
@[simp] theorem State.leaveTrap_du (s : State) : s.leaveTrap.du = s.du := rfl
@[simp] theorem State.leaveTrap_itd (s : State) :
    s.leaveTrap.itd = { s.itd with trapPhase := .idle, handlerSel := 0#5, handlerFrame := 0#32 } := rfl
@[simp] theorem State.leaveTrap_mem (s : State) : s.leaveTrap.mem = s.mem := rfl
@[simp] theorem State.leaveTrap_port (s : State) : s.leaveTrap.port = s.port := rfl
@[simp] theorem State.leaveTrap_trace (s : State) : s.leaveTrap.trace = s.trace := rfl
@[simp] theorem State.leaveTrap_env (s : State) : s.leaveTrap.env = s.env := rfl

/-! ### `State.goto` -/

@[simp] theorem State.goto_params (s : State) (pc : SeqPc) : (s.goto pc).params = s.params := rfl
@[simp] theorem State.goto_cfg (s : State) (pc : SeqPc) : (s.goto pc).cfg = s.cfg := rfl
@[simp] theorem State.goto_seq (s : State) (pc : SeqPc) : (s.goto pc).seq = { s.seq with pc := pc } := rfl
@[simp] theorem State.goto_ct (s : State) (pc : SeqPc) : (s.goto pc).ct = s.ct := rfl
@[simp] theorem State.goto_clocks (s : State) (pc : SeqPc) : (s.goto pc).clocks = s.clocks := rfl
@[simp] theorem State.goto_du (s : State) (pc : SeqPc) : (s.goto pc).du = s.du := rfl
@[simp] theorem State.goto_itd (s : State) (pc : SeqPc) : (s.goto pc).itd = s.itd := rfl
@[simp] theorem State.goto_mem (s : State) (pc : SeqPc) : (s.goto pc).mem = s.mem := rfl
@[simp] theorem State.goto_port (s : State) (pc : SeqPc) : (s.goto pc).port = s.port := rfl
@[simp] theorem State.goto_trace (s : State) (pc : SeqPc) : (s.goto pc).trace = s.trace := rfl
@[simp] theorem State.goto_env (s : State) (pc : SeqPc) : (s.goto pc).env = s.env := rfl

/-! ### `State.enterState` -/

@[simp] theorem State.enterState_params (s : State) (st : SeqState) : (s.enterState st).params = s.params := rfl
@[simp] theorem State.enterState_cfg (s : State) (st : SeqState) : (s.enterState st).cfg = s.cfg := rfl
@[simp] theorem State.enterState_seq (s : State) (st : SeqState) :
    (s.enterState st).seq = { s.seq with state := st } := rfl
@[simp] theorem State.enterState_ct (s : State) (st : SeqState) : (s.enterState st).ct = s.ct := rfl
@[simp] theorem State.enterState_clocks (s : State) (st : SeqState) : (s.enterState st).clocks = s.clocks := rfl
@[simp] theorem State.enterState_du (s : State) (st : SeqState) : (s.enterState st).du = s.du := rfl
@[simp] theorem State.enterState_itd (s : State) (st : SeqState) : (s.enterState st).itd = s.itd := rfl
@[simp] theorem State.enterState_mem (s : State) (st : SeqState) : (s.enterState st).mem = s.mem := rfl
@[simp] theorem State.enterState_port (s : State) (st : SeqState) : (s.enterState st).port = s.port := rfl
@[simp] theorem State.enterState_trace (s : State) (st : SeqState) : (s.enterState st).trace = s.trace := rfl
@[simp] theorem State.enterState_env (s : State) (st : SeqState) : (s.enterState st).env = s.env := rfl

/-! ### `State.endSequence` -/

@[simp] theorem State.endSequence_params (s : State) (f : SeqState) (st : RspStatus) :
    (s.endSequence f st).params = s.params := rfl
@[simp] theorem State.endSequence_cfg (s : State) (f : SeqState) (st : RspStatus) :
    (s.endSequence f st).cfg = .fresh s.params := rfl
@[simp] theorem State.endSequence_seq (s : State) (f : SeqState) (st : RspStatus) :
    (s.endSequence f st).seq = { s.seq with state := f, busy := false, pc := .idle } := rfl
@[simp] theorem State.endSequence_ct (s : State) (f : SeqState) (st : RspStatus) : (s.endSequence f st).ct = s.ct := rfl
@[simp] theorem State.endSequence_clocks (s : State) (f : SeqState) (st : RspStatus) :
    (s.endSequence f st).clocks = s.clocks := rfl
@[simp] theorem State.endSequence_du (s : State) (f : SeqState) (st : RspStatus) : (s.endSequence f st).du = s.du := rfl
@[simp] theorem State.endSequence_itd (s : State) (f : SeqState) (st : RspStatus) :
    (s.endSequence f st).itd = s.itd := rfl
@[simp] theorem State.endSequence_mem (s : State) (f : SeqState) (st : RspStatus) :
    (s.endSequence f st).mem = s.mem := rfl
@[simp] theorem State.endSequence_port (s : State) (f : SeqState) (st : RspStatus) :
    (s.endSequence f st).port = { s.port with rspStatus := st, rspData := 0#32, cmd := none } := rfl
@[simp] theorem State.endSequence_trace (s : State) (f : SeqState) (st : RspStatus) :
    (s.endSequence f st).trace = s.trace := rfl
@[simp] theorem State.endSequence_env (s : State) (f : SeqState) (st : RspStatus) :
    (s.endSequence f st).env = s.env := rfl

/-! ### The full hardware reset -/

@[simp] theorem State.hardReset_params (s : State) : s.hardReset.params = s.params := rfl
@[simp] theorem State.hardReset_env (s : State) : s.hardReset.env = s.env := rfl
@[simp] theorem State.powerUp_params (p : Params) (e : Env) : (State.powerUp p e).params = p := rfl
@[simp] theorem State.powerUp_mem (p : Params) (e : Env) : (State.powerUp p e).mem = [] := rfl

end Sys2Proof.Machine
end

