-- ==== Sys2Proof/Laws/Memory.lean ====
section
/-! SUPPORT. The laws of the cell list and of the interrupt-controller space: read after write, the canonical form kept,
the addresses of the slots, and what one access does. -/

namespace Sys2Proof.Machine

/-! ### The cell list -/

theorem Memory.above_of_lt {a b : Nat} (hab : a < b) : ∀ {m : List Host.Cell},
    Memory.above b m = true → Memory.above a m = true := by
  intro m h
  simp only [Memory.above, List.all_eq_true, decide_eq_true_eq] at *
  exact fun c hc => Nat.lt_trans hab (h c hc)

theorem Memory.read_of_above {a : Nat} : ∀ {m : List Host.Cell}, Memory.above a m = true → Memory.read m a = 0#8
  | [], _ => rfl
  | (b, v) :: m, h => by
    simp only [Memory.above, List.all_cons, Bool.and_eq_true, decide_eq_true_eq] at h
    have hm : Memory.above a m = true := h.2
    simp [Memory.read, Nat.ne_of_lt h.1, Memory.read_of_above hm]

/-- Reading the address just written gives the byte written. -/
theorem Memory.read_write_same (m : List Host.Cell) (a : Nat) (v : Byte) (h : Memory.wf m = true) :
    Memory.read (Memory.write m a v) a = v := by
  induction m with
  | nil => by_cases hv : v = 0#8 <;> simp [Memory.write, Memory.read, hv]
  | cons c m ih =>
    obtain ⟨b, w⟩ := c
    simp only [Memory.wf, Bool.and_eq_true] at h
    by_cases h1 : a < b
    · have hm : Memory.read m a = 0#8 := Memory.read_of_above (Memory.above_of_lt h1 h.1.1)
      by_cases hv : v = 0#8 <;> simp [Memory.write, Memory.read, h1, hv, Nat.ne_of_lt h1, hm]
    · by_cases h2 : a = b
      · subst h2
        by_cases hv : v = 0#8
        · simp [Memory.write, hv, Memory.read_of_above h.1.1]
        · simp [Memory.write, Memory.read, hv]
      · simp [Memory.write, Memory.read, h1, h2, ih h.2]

/-- A write leaves every other address alone. -/
theorem Memory.read_write_other (m : List Host.Cell) (a x : Nat) (v : Byte) (hx : x ≠ a) :
    Memory.read (Memory.write m a v) x = Memory.read m x := by
  induction m with
  | nil => by_cases hv : v = 0#8 <;> simp [Memory.write, Memory.read, hv, hx]
  | cons c m ih =>
    obtain ⟨b, w⟩ := c
    by_cases h1 : a < b
    · by_cases hv : v = 0#8 <;> simp [Memory.write, Memory.read, h1, hv, hx]
    · by_cases h2 : a = b
      · subst h2
        by_cases hv : v = 0#8 <;> simp [Memory.write, Memory.read, hv, hx]
      · simp [Memory.write, Memory.read, h1, h2, ih]

/-- What a write leaves listed: the cell written, if its byte is not 0, and the cells of other addresses. -/
theorem Memory.of_mem_write {m : List Host.Cell} {a : Nat} {v : Byte} {c : Host.Cell}
    (h : c ∈ Memory.write m a v) : (c = (a, v) ∧ v ≠ 0#8) ∨ c ∈ m := by
  induction m with
  | nil =>
    by_cases hv : v = 0#8
    · simp [Memory.write, hv] at h
    · simp [Memory.write, hv] at h; exact .inl ⟨h, hv⟩
  | cons d m ih =>
    obtain ⟨b, w⟩ := d
    by_cases h1 : a < b
    · by_cases hv : v = 0#8
      · simp only [Memory.write, h1, hv, if_true] at h; exact .inr h
      · simp only [Memory.write, h1, hv, if_true, if_false, List.mem_cons] at h
        rcases h with h | h
        · exact .inl ⟨h, hv⟩
        · exact .inr (List.mem_cons.2 h)
    · by_cases h2 : a = b
      · by_cases hv : v = 0#8
        · simp only [Memory.write, h2, hv, if_true, Nat.lt_irrefl, if_false] at h
          exact .inr (List.mem_cons_of_mem _ h)
        · simp only [Memory.write, hv, h2, if_true, Nat.lt_irrefl, if_false, List.mem_cons] at h
          rcases h with h | h
          · exact .inl ⟨by rw [h, h2], hv⟩
          · exact .inr (List.mem_cons_of_mem _ h)
      · simp only [Memory.write, h1, h2, if_false, List.mem_cons] at h
        rcases h with h | h
        · exact .inr (by simp [h])
        · rcases ih h with h | h
          · exact .inl h
          · exact .inr (List.mem_cons_of_mem _ h)

theorem Memory.above_write {m : List Host.Cell} {a x : Nat} {v : Byte} (h : Memory.above x m = true) (hx : x < a) :
    Memory.above x (Memory.write m a v) = true := by
  simp only [Memory.above, List.all_eq_true, decide_eq_true_eq] at *
  intro c hc
  rcases Memory.of_mem_write hc with ⟨hc, -⟩ | hc
  · rw [hc]; exact hx
  · exact h c hc

/-- Every write keeps the canonical form. -/
theorem Memory.wf_write (m : List Host.Cell) (a : Nat) (v : Byte) (h : Memory.wf m = true) :
    Memory.wf (Memory.write m a v) = true := by
  induction m with
  | nil => by_cases hv : v = 0#8 <;> simp [Memory.write, Memory.wf, Memory.above, hv]
  | cons c m ih =>
    obtain ⟨b, w⟩ := c
    have h' := h
    simp only [Memory.wf, Bool.and_eq_true, bne_iff_ne, ne_eq] at h
    by_cases h1 : a < b
    · by_cases hv : v = 0#8
      · simp only [Memory.write, h1, hv, if_true]; exact h'
      · have hab : Memory.above a ((b, w) :: m) = true := by
          have := Memory.above_of_lt h1 h.1.1
          simp only [Memory.above, List.all_cons, Bool.and_eq_true, decide_eq_true_eq]
          exact ⟨h1, this⟩
        simp only [Memory.write, h1, hv, if_true, if_false]
        rw [Memory.wf]
        simp only [Bool.and_eq_true, bne_iff_ne, ne_eq]
        exact ⟨⟨hab, hv⟩, h'⟩
    · by_cases h2 : a = b
      · subst h2
        by_cases hv : v = 0#8
        · simp only [Memory.write, hv, if_true, Nat.lt_irrefl, if_false]; exact h.2
        · simp [Memory.write, hv, Memory.wf, h.1.1, h.2]
      · have hba : b < a := by omega
        simp only [Memory.write, h1, h2, if_false, Memory.wf, Bool.and_eq_true, bne_iff_ne, ne_eq]
        exact ⟨⟨Memory.above_write h.1.1 hba, h.1.2⟩, ih h.2⟩

theorem writeWordCells_wf (m : List Host.Cell) (a : Nat) (v : Word) (h : Memory.wf m = true) :
    Memory.wf (writeWordCells m a v) = true :=
  Memory.wf_write _ _ _ (Memory.wf_write _ _ _ (Memory.wf_write _ _ _ (Memory.wf_write _ _ _ h)))

/-- A word write leaves every byte outside its four alone. -/
theorem writeWordCells_read_other (m : List Host.Cell) (a x : Nat) (v : Word) (h : x < a ∨ a + 4 ≤ x) :
    Memory.read (writeWordCells m a v) x = Memory.read m x := by
  unfold writeWordCells
  rw [Memory.read_write_other, Memory.read_write_other, Memory.read_write_other, Memory.read_write_other] <;> omega

/-- The four bytes of a word write, `v[0]`, `v[8]`, `v[16]`, `v[24]` (20_memory.md rule R77). -/
theorem writeWordCells_read_same (m : List Host.Cell) (a : Nat) (v : Word) (h : Memory.wf m = true) {k : Nat}
    (hk : k < 4) : Memory.read (writeWordCells m a v) (a + k) = slotByte (v.getLsbD (8 * k)) := by
  have h1 := Memory.wf_write m a (slotByte (v.getLsbD 0)) h
  have h2 := Memory.wf_write _ (a + 1) (slotByte (v.getLsbD 8)) h1
  have h3 := Memory.wf_write _ (a + 2) (slotByte (v.getLsbD 16)) h2
  unfold writeWordCells
  match k, hk with
  | 0, _ =>
    rw [Memory.read_write_other _ _ _ _ (by omega), Memory.read_write_other _ _ _ _ (by omega),
      Memory.read_write_other _ _ _ _ (by omega)]
    exact Memory.read_write_same _ _ _ h
  | 1, _ =>
    rw [Memory.read_write_other _ _ _ _ (by omega), Memory.read_write_other _ _ _ _ (by omega)]
    exact Memory.read_write_same _ _ _ h1
  | 2, _ =>
    rw [Memory.read_write_other _ _ _ _ (by omega)]
    exact Memory.read_write_same _ _ _ h2
  | 3, _ => exact Memory.read_write_same _ _ _ h3

/-- Four slots as a word, little-endian (20_memory.md rule R75). -/
theorem slotBytes_append (a b c d : Bool) : slotByte d ++ slotByte c ++ slotByte b ++ slotByte a
    = BitVec.ofNat 32 (a.toNat + 256 * b.toNat + 65536 * c.toNat + 16777216 * d.toNat) := by
  cases a <;> cases b <;> cases c <;> cases d <;> rfl

theorem slotByte_bit (b : Bool) : (slotByte b).getLsbD 0 = b := by cases b <;> decide

theorem slotByte_ne_zero {b : Bool} (h : slotByte b ≠ 0#8) : slotByte b = 1#8 := by
  cases b <;> simp_all [slotByte]

/-! ### Slot addresses -/

/-- The four parts of an admissible parameter set (00_scope.md rule R7). -/
theorem Params.ok_cases {p : Params} (h : p.ok = true) :
    p.clockOk = true ∧ p.sysclkTableOk = true ∧ p.spaceOk = true ∧ p.irqOk = true := by
  simp only [Params.ok, Bool.and_eq_true] at h
  tauto

/-- The conjuncts of the address constraints of 00_scope.md rule R6 and rule R7 (a). -/
theorem Params.spaceOk_cases {p : Params} (h : p.spaceOk = true) :
    p.ctrlBase.toNat % 4 = 0 ∧ p.enOff.toNat % 4 = 0 ∧ p.pendOff.toNat % 4 = 0
      ∧ 1 ≤ p.bitmapWords ∧ p.bitmapWords ≤ 64
      ∧ p.enBase + p.nslot ≤ 2 ^ 32 ∧ p.pendBase + p.nslot ≤ 2 ^ 32
      ∧ (p.enBase + p.nslot ≤ p.pendBase ∨ p.pendBase + p.nslot ≤ p.enBase) := by
  simp only [Params.spaceOk, Bool.and_eq_true, Bool.or_eq_true, decide_eq_true_eq] at h
  tauto

/-- Slot `n` of the enable region is at `CTRL_BASE + EN_OFF + n`, with no wrap (20_memory.md rule R74). -/
theorem enAddr_toNat {p : Params} (h : p.spaceOk = true) {n : Nat} (hn : n < p.nslot) :
    (enAddr p n).toNat = p.enBase + n := by
  obtain ⟨-, -, -, -, -, h1, -, -⟩ := Params.spaceOk_cases h
  simp only [enAddr, BitVec.toNat_add, BitVec.toNat_ofNat, Params.enBase] at *
  omega

/-- Slot `n` of the pending region is at `CTRL_BASE + PEND_OFF + n`, with no wrap (20_memory.md rule R74). -/
theorem pendAddr_toNat {p : Params} (h : p.spaceOk = true) {n : Nat} (hn : n < p.nslot) :
    (pendAddr p n).toNat = p.pendBase + n := by
  obtain ⟨-, -, -, -, -, -, h1, -⟩ := Params.spaceOk_cases h
  simp only [pendAddr, BitVec.toNat_add, BitVec.toNat_ofNat, Params.pendBase] at *
  omega

theorem inEnable_iff {p : Params} {a : Nat} : inEnable p a = true ↔ p.enBase ≤ a ∧ a < p.enBase + p.nslot := by
  simp [inEnable]

theorem inPending_iff {p : Params} {a : Nat} :
    inPending p a = true ↔ p.pendBase ≤ a ∧ a < p.pendBase + p.nslot := by
  simp [inPending]

theorem isSlot_enAddr {p : Params} (h : p.spaceOk = true) {n : Nat} (hn : n < p.nslot) :
    isSlot p (enAddr p n).toNat = true := by
  rw [enAddr_toNat h hn]
  simp [isSlot, inEnable]; omega

theorem isSlot_pendAddr {p : Params} (h : p.spaceOk = true) {n : Nat} (hn : n < p.nslot) :
    isSlot p (pendAddr p n).toNat = true := by
  rw [pendAddr_toNat h hn]
  simp [isSlot, inPending]; omega

/-- Word `w` of INSTALL's enable sweep is at `CTRL_BASE + EN_OFF + 4*w` (43_interrupt_ops.md rule R224). -/
theorem enWordAddr_toNat {p : Params} (h : p.spaceOk = true) {w : Nat} (hw : w < p.bitmapWords) :
    (p.ctrlBase + p.enOff + BitVec.ofNat 32 (4 * w)).toNat = p.enBase + 4 * w :=
  enAddr_toNat h (n := 4 * w) (by simp only [Params.nslot]; omega)

/-- Word `w` of INSTALL's pending sweep is at `CTRL_BASE + PEND_OFF + 4*w`. -/
theorem pendWordAddr_toNat {p : Params} (h : p.spaceOk = true) {w : Nat} (hw : w < p.bitmapWords) :
    (p.ctrlBase + p.pendOff + BitVec.ofNat 32 (4 * w)).toNat = p.pendBase + 4 * w :=
  pendAddr_toNat h (n := 4 * w) (by simp only [Params.nslot]; omega)

theorem isSlotWord_enWord {p : Params} (h : p.spaceOk = true) {w : Nat} (hw : w < p.bitmapWords) :
    isSlotWord p (p.ctrlBase + p.enOff + BitVec.ofNat 32 (4 * w)).toNat = true := by
  rw [enWordAddr_toNat h hw]
  obtain ⟨h1, h2, -, -, -, -, -, -⟩ := Params.spaceOk_cases h
  simp only [isSlotWord, inEnable, Params.enBase, Params.nslot, Bool.and_eq_true, Bool.or_eq_true]
  refine ⟨?_, .inl ⟨⟨?_, ?_⟩, ?_, ?_⟩⟩ <;> exact decide_eq_true (by omega)

theorem isSlotWord_pendWord {p : Params} (h : p.spaceOk = true) {w : Nat} (hw : w < p.bitmapWords) :
    isSlotWord p (p.ctrlBase + p.pendOff + BitVec.ofNat 32 (4 * w)).toNat = true := by
  rw [pendWordAddr_toNat h hw]
  obtain ⟨h1, -, h2, -, -, -, -, -⟩ := Params.spaceOk_cases h
  simp only [isSlotWord, inPending, Params.pendBase, Params.nslot, Bool.and_eq_true, Bool.or_eq_true]
  refine ⟨?_, .inr ⟨⟨?_, ?_⟩, ?_, ?_⟩⟩ <;> exact decide_eq_true (by omega)

/-- The four slots of an admitted word access exist. -/
theorem isSlot_of_word {p : Params} {a : Nat} (h : isSlotWord p a = true) {i : Nat} (hi : i ≤ 3) :
    isSlot p (a + i) = true := by
  simp only [isSlotWord, isSlot, inEnable, inPending, Bool.and_eq_true, Bool.or_eq_true, decide_eq_true_eq] at *
  omega

/-! ### One access -/

/-- Everything a `MemWrite` can do (20_memory.md rule R76, rule R77, rule R78). -/
theorem memWrite_cases {s t : State} {addr : Addr} {n : Nat} {v : Word} (h : s.memWrite addr n v = some t) :
    (n = 1 ∧ isSlot s.params addr.toNat = true ∧
        t = (s.setLatch addr.toNat (v.getLsbD 0)).memEvent ⟨addr, 1, v⟩) ∨
    (n = 4 ∧ isSlotWord s.params addr.toNat = true ∧
        t = ({ s with mem := writeWordCells s.mem addr.toNat v } : State).memEvent ⟨addr, 4, v⟩) := by
  simp only [State.memWrite] at h
  split at h
  · split at h
    · exact .inl ⟨‹_›, ‹_›, by simpa using h.symm⟩
    · cases h
  · split at h
    · split at h
      · exact .inr ⟨‹_›, ‹_›, by simpa using h.symm⟩
      · cases h
    · cases h

/-- A `MemWrite` changes the latch bits and `mem_trace` only. -/
theorem memWrite_frame {s t : State} {addr : Addr} {n : Nat} {v : Word} (h : s.memWrite addr n v = some t) :
    t.params = s.params ∧ t.cfg = s.cfg ∧ t.seq = s.seq ∧ t.ct = s.ct ∧ t.clocks = s.clocks ∧ t.du = s.du
      ∧ t.itd = s.itd ∧ t.port = s.port ∧ t.env = s.env ∧ t.trace.clk = s.trace.clk ∧ t.trace.call = s.trace.call
      ∧ t.trace.mem = s.trace.mem ++ [⟨addr, n, v⟩] := by
  rcases memWrite_cases h with ⟨rfl, -, rfl⟩ | ⟨rfl, -, rfl⟩ <;> simp

end Sys2Proof.Machine
end

