-- ==== Sys2Proof/Laws/Ops.lean ====
section
/-! SUPPORT. What each shared operation can do, said once: the guard, the command checks, the wait, the crystal read, the
arbiter, delivery, INSTALL's accesses, a slot write. A proof cites these and unfolds nothing. -/

namespace Sys2Proof.Machine

/-! ### The guard and the command checks -/

/-- Every agent's step, in a block that has not halted. -/
theorem unlessHalted_of (s : State) (body : State → Result) (h : s.port.halted = false) :
    unlessHalted s body = body s := by simp [unlessHalted, h]

/-- A halted block has no step (60_exceptions.md rule R250). -/
theorem unlessHalted_halted (s : State) (body : State → Result) (h : s.port.halted = true) :
    unlessHalted s body = .fault (.halted s.port.faultCode) := by simp [unlessHalted, h]

/-- If the guard lets a next state through, the block has not halted and the body answered it. -/
theorem unlessHalted_next {s t : State} {body : State → Result} (h : unlessHalted s body = .next t) :
    s.port.halted = false ∧ body s = .next t := by
  unfold unlessHalted at h
  split at h
  · cases h
  · rename_i hh
    exact ⟨Bool.eq_false_iff.2 hh, h⟩

/-- No check of 3 to 6 fails (30_encoding.md rule R110). -/
theorem firstFailure_none {context form : Bool} {pre : Option FaultCode} :
    firstFailure context form pre = none ↔ context = true ∧ form = true ∧ pre = none := by
  cases context <;> cases form <;> simp [firstFailure]

/-- A command that passes its checks does what its own rule says (rule R110 step 7). -/
theorem command_accepted (s : State) (context form : Bool) (pre : Option FaultCode) (body : State → Result)
    (hh : s.port.halted = false) (hc : context = true) (hf : form = true) (hp : pre = none) :
    command s context form pre body = body s := by
  simp [command, unlessHalted, hh, firstFailure, hc, hf, hp]

/-- A command whose first failing check is `code` raises it and changes nothing else (rule R110, rule R256). -/
theorem command_rejected (s : State) (context form : Bool) (pre : Option FaultCode) (body : State → Result)
    (code : FaultCode) (hh : s.port.halted = false) (hf : firstFailure context form pre = some code) :
    command s context form pre body = .next (s.fatal code) := by
  simp [command, unlessHalted, hh, hf]

/-- Everything a command that answers a next state has done. -/
theorem command_next {s t : State} {context form : Bool} {pre : Option FaultCode} {body : State → Result}
    (h : command s context form pre body = .next t) :
    s.port.halted = false ∧
      ((∃ code, firstFailure context form pre = some code ∧ t = s.fatal code) ∨
        (context = true ∧ form = true ∧ pre = none ∧ body s = .next t)) := by
  obtain ⟨hh, h⟩ := unlessHalted_next h
  refine ⟨hh, ?_⟩
  split at h
  · exact .inl ⟨_, ‹_›, by simpa using h.symm⟩
  · obtain ⟨h1, h2, h3⟩ := firstFailure_none.1 ‹_›
    exact .inr ⟨h1, h2, h3, h⟩

/-! ### The delay unit -/

/-- One evaluation of a wait's test: over, or nothing changed (40_delay_unit.md rule R133). -/
theorem testWait_cases (s : State) :
    (s.du.waitN ≤ s.du.elapsed s.du.waitStart ∧ s.testWait = s.endWait)
      ∨ (¬ s.du.waitN ≤ s.du.elapsed s.du.waitStart ∧ s.testWait = s) := by
  unfold State.testWait
  split
  · exact .inl ⟨‹_›, rfl⟩
  · exact .inr ⟨‹_›, rfl⟩

/-- WAIT_CYCLES at one turn of the unit: begun if it was not, then over or held (rule R133). -/
theorem waitCycles_cases (s : State) (n : Cycles) :
    (s.du.waiting = true ∧ (s.waitCycles n = s.endWait ∨ s.waitCycles n = s))
      ∨ (s.du.waiting = false
          ∧ (s.waitCycles n = (s.beginWait n).endWait ∨ s.waitCycles n = s.beginWait n)) := by
  unfold State.waitCycles
  split
  · rcases testWait_cases s with ⟨-, h⟩ | ⟨-, h⟩ <;> exact .inl ⟨‹_›, by simp [h]⟩
  · rename_i hw
    have hw := Bool.eq_false_iff.2 hw
    rcases testWait_cases (s.beginWait n) with ⟨-, h⟩ | ⟨-, h⟩ <;> exact .inr ⟨hw, by simp [h]⟩

/-- The wait part of a micro-step at one turn of the sequencer (42_clock_sequencer.md rule R171): moved on, held, or
begun. -/
theorem heldFor_cases (s : State) (us : BitVec 32) (succ : SeqPc) (before : State → State) :
    (s.du.done = true ∧ s.heldFor us succ before
        = { s with du := { s.du with done := false }, seq := { s.seq with pc := succ } })
      ∨ (s.du.done = false ∧ s.du.req.isSome = true ∧ s.heldFor us succ before = s)
      ∨ (s.du.done = false ∧ s.du.req = none ∧ s.heldFor us succ before = (before s).requestMicros us) := by
  unfold State.heldFor
  split
  · exact .inl ⟨‹_›, rfl⟩
  · rename_i hd
    have hd := Bool.eq_false_iff.2 hd
    split
    · exact .inr (.inl ⟨hd, ‹_›, rfl⟩)
    · rename_i hr
      exact .inr (.inr ⟨hd, by simpa using hr, rfl⟩)

/-! ### The crystal -/

/-- A read of `CT.xtal_ready`: the answer, and the state with its trace entry and the answer used up (20_memory.md rule
R73). -/
theorem ctReadXtalReady_cases (s : State) : ∃ e : Env,
    s.ctReadXtalReady.2 = { s.clkEvent (.r s.ctReadXtalReady.1) with env := e } ∧ e.sched = s.env.sched := by
  unfold State.ctReadXtalReady
  split
  · exact ⟨_, rfl, rfl⟩
  · exact ⟨_, rfl, rfl⟩

/-- An announced answer is the answer. -/
theorem ctReadXtalReady_announced (s : State) (b : Bool) (rest : List Bool) (h : s.env.xtalAnswers = b :: rest) :
    s.ctReadXtalReady
      = (b, { s.clkEvent (.r b) with env := { s.env with xtalAnswers := rest } }) := by
  simp [State.ctReadXtalReady, h]

/-! ### The arbiter and delivery -/

/-- Some member of the candidate list is offered (60_exceptions.md rule R262). -/
theorem arbSelect_some (draws : Nat) {l : List Nat} (h : l ≠ []) : ∃ n, arbSelect draws l = some n ∧ n ∈ l := by
  match l, h with
  | [n], _ => exact ⟨n, rfl, by simp⟩
  | n :: m :: ns, _ =>
    have hlt : Config.arbChoice draws (n :: m :: ns) % (ns.length + 2) < (n :: m :: ns).length := by
      simpa using Nat.mod_lt (Config.arbChoice draws (n :: m :: ns)) (Nat.succ_pos (ns.length + 1))
    exact ⟨_, List.getElem?_eq_getElem hlt, List.getElem_mem hlt⟩

/-- The candidates are the slots enabled and pending (rule R262). -/
theorem mem_candidates {s : State} {n : Nat} :
    n ∈ s.candidates ↔ n < s.params.nslot ∧ s.en n = true ∧ s.pend n = true := by
  simp [State.candidates]

/-- The condition of rule R263, in full. -/
theorem deliverable_iff {s : State} : s.deliverable = true ↔
    s.port.halted = false ∧ s.itd.dispState ≠ .uninstalled ∧ s.itd.globalIe = true ∧ s.seq.busy = false
      ∧ s.itd.trapPhase = .idle ∧ s.port.cmd = none ∧ s.candidates ≠ [] := by
  simp only [State.deliverable, Bool.and_eq_true, Bool.not_eq_true', bne_iff_ne, ne_eq, beq_iff_eq,
    Option.isNone_iff_eq_none, List.isEmpty_eq_false_iff]
  tauto

/-- Delivery: some candidate becomes the cause (rule R263). -/
theorem deliver_cases (s : State) : s.deliver = s ∨ ∃ n, n ∈ s.candidates ∧
    s.deliver = ({ s with env := { s.env with arbDraws := s.env.arbDraws + 1 } } : State).enterTrap
      (interruptCause n) := by
  by_cases hc : s.candidates = []
  · exact .inl (by simp [State.deliver, hc, arbSelect])
  · obtain ⟨n, hn, hm⟩ := arbSelect_some s.env.arbDraws hc
    exact .inr ⟨n, hm, by simp [State.deliver, hn]⟩

/-! ### The dispatcher's accesses -/

/-- A word of an INSTALL sweep. -/
theorem clearWord_next {s t : State} {base : Addr} {w : Nat} {nx : InstallStep}
    (h : clearWord s base w nx = .next t) :
    ∃ u, s.memWrite (base + BitVec.ofNat 32 (4 * w)) 4 0#32 = some u
      ∧ t = { u with itd := { u.itd with install := some nx } } := by
  unfold clearWord at h
  split at h
  · cases h
  · exact ⟨_, ‹_›, by simpa using h.symm⟩

/-- Everything a turn of INSTALL can do (43_interrupt_ops.md rule R223, rule R224). -/
theorem execInstall_next {arg : Word} {s t : State} (h : execInstall arg s = .next t) :
    s.port.halted = false ∧
    ((s.itd.install = none ∧ ∃ code, t = s.fatal code)
      ∨ (s.itd.install = none ∧ s.itd.dispState = .uninstalled ∧ s.itd.trapPhase ≠ .trapped
          ∧ t = { s with itd := { s.itd with globalIe := false, install := some .vector } })
      ∨ (s.itd.install = some .vector
          ∧ t = { s with itd := { s.itd with tvec := arg, install := some (.enWord 0) } })
      ∨ (∃ w u, s.itd.install = some (.enWord w)
          ∧ s.memWrite (s.params.ctrlBase + s.params.enOff + BitVec.ofNat 32 (4 * w)) 4 0#32 = some u
          ∧ t = { u with itd := { u.itd with install := some (afterEnWord s.params w) } })
      ∨ (∃ w u, s.itd.install = some (.pendWord w)
          ∧ s.memWrite (s.params.ctrlBase + s.params.pendOff + BitVec.ofNat 32 (4 * w)) 4 0#32 = some u
          ∧ t = { u with itd := { u.itd with install := some (afterPendWord s.params w) } })
      ∨ (s.itd.install = some .finish
          ∧ t = ({ s with itd := { s.itd with globalIe := true, dispState := .vectorInstalled, install := none } }
              : State).respond .ok 0#32)) := by
  unfold execInstall at h
  split at h
  · obtain ⟨hh, h⟩ := command_next h
    refine ⟨hh, ?_⟩
    rcases h with ⟨code, -, rfl⟩ | ⟨hc, -, hp, h⟩
    · exact .inl ⟨‹_›, code, rfl⟩
    · refine .inr (.inl ⟨‹_›, ?_, ?_, by simpa using h.symm⟩)
      · unfold needUninstalled at hp
        split at hp
        · assumption
        · cases hp
      · simpa [contextPlain] using hc
  · obtain ⟨hh, h⟩ := unlessHalted_next h
    exact ⟨hh, .inr (.inr (.inl ⟨‹_›, by simpa using h.symm⟩))⟩
  · obtain ⟨hh, h⟩ := unlessHalted_next h
    obtain ⟨u, hu, rfl⟩ := clearWord_next h
    exact ⟨hh, .inr (.inr (.inr (.inl ⟨_, u, ‹_›, hu, rfl⟩)))⟩
  · obtain ⟨hh, h⟩ := unlessHalted_next h
    obtain ⟨u, hu, rfl⟩ := clearWord_next h
    exact ⟨hh, .inr (.inr (.inr (.inr (.inl ⟨_, u, ‹_›, hu, rfl⟩))))⟩
  · obtain ⟨hh, h⟩ := unlessHalted_next h
    exact ⟨hh, .inr (.inr (.inr (.inr (.inr ⟨‹_›, by simpa using h.symm⟩))))⟩

/-- Everything a slot write can do (rule R225 to rule R227). -/
theorem writeSlot_next {s t : State} {arg : Word} {addr : Params → Nat → Addr} {v : Word} {after : State → State}
    (h : writeSlot s arg addr v after = .next t) :
    t = s.fatal .unknownIrq ∨ ∃ i u, identityOf (idByteOf arg) = some i
      ∧ s.memWrite (addr s.params (irqOf s.params i)) 1 v = some u ∧ t = (after u).respond .ok 0#32 := by
  unfold writeSlot at h
  split at h
  · exact .inl (by simpa using h.symm)
  · split at h
    · cases h
    · exact .inr ⟨_, _, ‹_›, ‹_›, by simpa using h.symm⟩

/-- ENABLE, DISABLE and CLEAR past their checks. -/
theorem needInstalledIrq_none {s : State} {arg : Word} :
    needInstalledIrq s arg = none ↔ s.itd.dispState ≠ .uninstalled ∧ (identityOf (idByteOf arg)).isSome = true := by
  unfold needInstalledIrq
  cases h : identityOf (idByteOf arg) <;> by_cases hd : s.itd.dispState = .uninstalled <;> simp [hd]

theorem needToken_none {s : State} : needToken s = none ↔ s.seq.state.tokenFree = true := by
  unfold needToken; split <;> simp_all

theorem needClocks_none {s : State} : needClocks s = none ↔ s.clocks.valid = true := by
  unfold needClocks; split <;> simp_all

/-- The four IRQ numbers are slots (00_scope.md rule R7 (b)). -/
theorem irqOf_lt {p : Params} (h : p.irqOk = true) (i : IrqId) : irqOf p i < p.nslot := by
  simp only [Params.irqOk, Params.irqNumbers, Bool.and_eq_true, decide_eq_true_eq, List.all_cons, List.all_nil] at h
  cases i <;> simp only [irqOf] <;> tauto

theorem irqOf_mem (p : Params) (i : IrqId) : irqOf p i ∈ p.irqNumbers := by
  cases i <;> simp [irqOf, Params.irqNumbers]

end Sys2Proof.Machine
end

