-- ==== Sys2Proof/Laws/Step.lean ====
section
/-! SUPPORT. What a step can do, said once: whose turn it is, with which state, and what the action answers. -/

namespace Sys2Proof.Machine

/-- The state with another schedule. -/
abbrev State.withSched (s : State) (es : List Event) : State := { s with env := { s.env with sched := es } }

/-- What the block's own agents do next, with the condition of each (42_clock_sequencer.md rule R171, 60_exceptions.md
rule R263). -/
theorem ownAction_cases (s : State) :
    (∃ w, s.du.req = some w ∧ ownAction s = .run (.delay w))
      ∨ (s.du.req = none ∧ s.seq.pc ≠ .idle ∧ ownAction s = .run (.micro s.seq.pc.code))
      ∨ (∃ w, s.du.req = none ∧ s.seq.pc = .idle ∧ s.port.cmd = some w ∧ ownAction s = .run (.command w))
      ∨ (s.du.req = none ∧ s.seq.pc = .idle ∧ s.port.cmd = none ∧ s.deliverable = true ∧ ownAction s = .deliver)
      ∨ (s.du.req = none ∧ s.seq.pc = .idle ∧ s.port.cmd = none ∧ s.deliverable = false ∧ ownAction s = .wait) := by
  unfold ownAction
  cases hr : s.du.req with
  | some w => exact .inl ⟨w, rfl, rfl⟩
  | none =>
    by_cases hp : s.seq.pc = .idle
    · cases hc : s.port.cmd with
      | some w => exact .inr (.inr (.inl ⟨w, by simp [hp]⟩))
      | none => cases hd : s.deliverable <;> simp [hp]
    · exact .inr (.inl (by simp [hp]))

/-- The condition under which the host or an injected trap acts. -/
theorem quiet_iff {s : State} : s.quiet = true ↔
    s.du.req = none ∧ s.seq.pc = .idle ∧ s.seq.busy = false ∧ s.port.cmd = none := by
  simp only [State.quiet, Bool.and_eq_true, Bool.not_eq_true', beq_iff_eq, Option.isNone_iff_eq_none]
  tauto

/-- What happens next, with the state it happens in: a turn of the block, a command presented, or an event. -/
theorem nextAction_cases (s : State) :
    (∃ es, nextAction s = (ownAction s, s.withSched es))
      ∨ (∃ w es, s.hostReady = true ∧ nextAction s
          = (.run (.command w), { s.withSched es with port := { s.port with cmd := some w } }))
      ∨ (∃ v es, s.quiet = true ∧ nextAction s = (.event (.trap v), s.withSched es))
      ∨ (∃ e es, (e = .tick ∨ (∃ b, e = .xtal b) ∨ (∃ n, e = .raise n) ∨ e = .reset)
          ∧ nextAction s = (.event e, s.withSched es)) := by
  unfold nextAction
  split
  · exact .inl ⟨s.env.sched, rfl⟩
  · exact .inl ⟨_, rfl⟩
  · split
    · rename_i w es _ hr
      exact .inr (.inl ⟨w, es, hr, rfl⟩)
    · exact .inl ⟨s.env.sched, rfl⟩
  · split
    · exact .inr (.inr (.inl ⟨_, _, ‹_›, rfl⟩))
    · exact .inl ⟨s.env.sched, rfl⟩
  · rename_i e es h1 h2 h3 _
    refine .inr (.inr (.inr ⟨e, es, ?_, rfl⟩))
    cases e with
    | tick => exact .inl rfl
    | xtal b => exact .inr (.inl ⟨b, rfl⟩)
    | raise n => exact .inr (.inr (.inl ⟨n, rfl⟩))
    | reset => exact .inr (.inr (.inr rfl))
    | trap v => exact absurd rfl (h3 v)
    | cmd w => exact absurd rfl (h2 w)
    | own => exact absurd rfl h1

/-- Everything a step that answers a next state has done. -/
theorem step_next {s t : State} (h : step s = .next t) :
    s.params.ok = true ∧ act (nextAction s).1 (nextAction s).2 = .next t := by
  unfold step at h
  split at h
  · exact ⟨‹_›, h⟩
  · cases h

/-- Running a word: a reserved opcode is fatal, a decoded instruction has its meaning. -/
theorem runWord_next {w : FetchWord} {s t : State} (h : runWord w s = .next t) :
    (∃ i, decode w = .ok i ∧ exec i s = .next t)
      ∨ (∃ op, decode w = .error (.reservedOpcode op) ∧ t = s.fatal .illegalCmd) := by
  unfold runWord at h
  split at h
  · exact .inl ⟨_, ‹_›, h⟩
  · exact .inr ⟨_, ‹_›, by simpa using h.symm⟩
  · cases h

/-- A run goes on from the state its first step answers. -/
theorem run_succ {s t : State} (h : step s = .next t) (m : Nat) :
    Host.Core.run Sys2Proof.core (m + 1) s = Host.Core.run Sys2Proof.core m t := by
  have hc : Sys2Proof.core.step s = .next t := h
  simp only [Host.Core.run, hc]

/-- A run of no step stays. -/
theorem run_zero (s : State) : Host.Core.run Sys2Proof.core 0 s = .next s := rfl

/-- A decoded word is run as its instruction. -/
theorem runWord_of_decode {w : FetchWord} {i : Instr} (s : State) (h : decode w = .ok i) : runWord w s = exec i s := by
  simp [runWord, h]

end Sys2Proof.Machine
end

