-- ==== Sys2Proof/Laws/Frames.lean ====
section
/-! SUPPORT. What an instruction of each agent leaves alone, and the list of everything a step can have done. Proofs over
all instructions go by agent; proofs over all steps go by `Did`. -/

namespace Sys2Proof.Machine

/-- The writes a micro-step makes before its wait touch the sequencer, the clock tree and `clk_trace` only. -/
def WritesClock (before : State → State) : Prop :=
  ∀ s : State, (before s).params = s.params ∧ (before s).itd = s.itd ∧ (before s).mem = s.mem
    ∧ (before s).trace.mem = s.trace.mem ∧ (before s).trace.call = s.trace.call ∧ (before s).env = s.env
    ∧ (before s).du = s.du

/-- The sequencer's steps leave the dispatcher, the interrupt-controller space and the schedule alone. -/
def SequencerFrame (s t : State) : Prop :=
  t.params = s.params ∧ t.itd = s.itd ∧ t.mem = s.mem ∧ t.trace.mem = s.trace.mem ∧ t.trace.call = s.trace.call
    ∧ t.env.sched = s.env.sched ∧ t.du.cyc = s.du.cyc

theorem heldFor_frame (s : State) (us : BitVec 32) (succ : SeqPc) {before : State → State} (hb : WritesClock before) :
    SequencerFrame s (s.heldFor us succ before) := by
  rcases heldFor_cases s us succ before with ⟨-, h⟩ | ⟨-, -, h⟩ | ⟨-, -, h⟩ <;> rw [h]
  · exact ⟨rfl, rfl, rfl, rfl, rfl, rfl, rfl⟩
  · exact ⟨rfl, rfl, rfl, rfl, rfl, rfl, rfl⟩
  · obtain ⟨h1, h2, h3, h4, h5, h6, h7⟩ := hb s
    exact ⟨h1, h2, h3, h4, h5, congrArg Env.sched h6, by simpa using congrArg DelayUnit.cyc h7⟩

theorem sequencer_frame {i : Instr} {s t : State} (hi : agentOf i = .sequencer) (h : exec i s = .next t) :
    SequencerFrame s t := by
  have hw : ∀ f v, WritesClock (·.ctWrite f v) := fun f v s => ⟨rfl, rfl, rfl, rfl, rfl, rfl, rfl⟩
  have hid : WritesClock id := fun s => ⟨rfl, rfl, rfl, rfl, rfl, rfl, rfl⟩
  cases i <;> simp only [agentOf, reduceCtorEq] at hi <;> simp only [exec] at h <;>
    obtain ⟨-, h⟩ := unlessHalted_next h
  case sPollWait => cases h; exact heldFor_frame _ _ _ hid
  case sSettle => cases h; exact heldFor_frame _ _ _ hid
  case sPuBias => cases h; exact heldFor_frame _ _ _ fun s => ⟨rfl, rfl, rfl, rfl, rfl, rfl, rfl⟩
  case sPuCore => cases h; exact heldFor_frame _ _ _ (hw _ _)
  case sPuCpdiv => cases h; exact heldFor_frame _ _ _ (hw _ _)
  case sSdmSet => cases h; exact heldFor_frame _ _ _ (hw _ _)
  case sSdmClr => cases h; exact heldFor_frame _ _ _ (hw _ _)
  case sFbdvSet => cases h; exact heldFor_frame _ _ _ (hw _ _)
  case sFbdvClr => cases h; exact heldFor_frame _ _ _ (hw _ _)
  case sPollRead =>
    obtain ⟨e, he, hs⟩ := ctReadXtalReady_cases s
    cases h
    rw [he]
    exact ⟨rfl, rfl, rfl, rfl, rfl, hs, rfl⟩
  case sReach =>
    split at h
    · cases h
    · split at h <;> cases h <;> exact ⟨rfl, rfl, rfl, rfl, rfl, rfl, rfl⟩
  case sIcache =>
    dsimp only at h
    split at h <;> cases h <;> exact ⟨rfl, rfl, rfl, rfl, rfl, rfl, rfl⟩
  case sDivcalc =>
    split at h
    · cases h; exact ⟨rfl, rfl, rfl, rfl, rfl, rfl, rfl⟩
    · split at h <;> cases h <;> exact ⟨rfl, rfl, rfl, rfl, rfl, rfl, rfl⟩
  case sPllLookup =>
    dsimp only at h
    split at h <;> cases h <;> exact ⟨rfl, rfl, rfl, rfl, rfl, rfl, rfl⟩
  case sBusdiv =>
    dsimp only at h
    split at h <;> cases h <;> exact ⟨rfl, rfl, rfl, rfl, rfl, rfl, rfl⟩
  all_goals cases h; exact ⟨rfl, rfl, rfl, rfl, rfl, rfl, rfl⟩

/-- The delay unit's operations touch the unit and `clk_trace` only. -/
theorem delayUnit_frame {i : Instr} {s t : State} (hi : agentOf i = .delayUnit) (h : exec i s = .next t) :
    t.params = s.params ∧ t.cfg = s.cfg ∧ t.seq = s.seq ∧ t.ct = s.ct ∧ t.clocks = s.clocks ∧ t.itd = s.itd
      ∧ t.mem = s.mem ∧ t.port = s.port ∧ t.trace.mem = s.trace.mem ∧ t.trace.call = s.trace.call ∧ t.env = s.env
      ∧ t.du.cyc = s.du.cyc := by
  have key : ∀ n, s.waitCycles n = t → t.params = s.params ∧ t.cfg = s.cfg ∧ t.seq = s.seq ∧ t.ct = s.ct
      ∧ t.clocks = s.clocks ∧ t.itd = s.itd ∧ t.mem = s.mem ∧ t.port = s.port ∧ t.trace.mem = s.trace.mem
      ∧ t.trace.call = s.trace.call ∧ t.env = s.env ∧ t.du.cyc = s.du.cyc := by
    rintro n rfl
    rcases waitCycles_cases s n with ⟨-, h | h⟩ | ⟨-, h | h⟩ <;> simp [h]
  cases i <;> simp only [agentOf, reduceCtorEq] at hi <;> simp only [exec] at h <;>
    obtain ⟨-, h⟩ := unlessHalted_next h
  case waitCycles => exact key _ (by simpa using h)
  case waitMicros => exact key _ (by simpa using h)
  case waitMillis => exact key _ (by simpa using h)
  all_goals cases h; simp

/-- The clock half's commands touch the configuration registers, the sequencer and the port only. -/
theorem clockCommand_frame {i : Instr} {s t : State} (hi : agentOf i = .clockCommand) (h : exec i s = .next t) :
    t.params = s.params ∧ t.ct = s.ct ∧ t.clocks = s.clocks ∧ t.itd = s.itd ∧ t.mem = s.mem ∧ t.du = s.du
      ∧ t.trace = s.trace ∧ t.env = s.env := by
  cases i <;> simp only [agentOf, reduceCtorEq] at hi <;>
    simp only [exec, execCfgSysclk, execCfgUart, execCfgSpi, execCfgXtal, configure, execFreeze, execRdSysclk,
      execRdUart, execRdSpi, execRdPllen, execRdXtal, readClocks] at h <;>
  · obtain ⟨-, ⟨c, -, rfl⟩ | ⟨-, -, -, h⟩⟩ := command_next h
    · simp
    · cases h; simp

/-- What the dispatcher's commands leave alone. -/
def DispatcherFrame (s t : State) : Prop :=
  t.params = s.params ∧ t.cfg = s.cfg ∧ t.seq = s.seq ∧ t.ct = s.ct ∧ t.clocks = s.clocks ∧ t.du = s.du
    ∧ t.trace.clk = s.trace.clk ∧ t.env = s.env

theorem memWrite_dispatcherFrame {s u : State} {addr : Addr} {n : Nat} {v : Word} (h : s.memWrite addr n v = some u) :
    DispatcherFrame s u := by
  obtain ⟨h1, h2, h3, h4, h5, h6, -, -, h9, h10, -⟩ := memWrite_frame h
  exact ⟨h1, h2, h3, h4, h5, h6, h10, h9⟩

theorem writeSlot_frame {s t : State} {arg : Word} {addr : Params → Nat → Addr} {v : Word} {after : State → State}
    (ha : ∀ s, DispatcherFrame s (after s)) (h : writeSlot s arg addr v after = .next t) : DispatcherFrame s t := by
  rcases writeSlot_next h with rfl | ⟨i, u, -, hu, rfl⟩
  · simp [DispatcherFrame]
  · have h1 := memWrite_dispatcherFrame hu
    have h2 := ha u
    simp only [DispatcherFrame] at h1 h2
    simp [DispatcherFrame, h1, h2]

theorem activate_frame (s : State) : DispatcherFrame s (activate s) := by
  unfold activate
  split <;> simp [DispatcherFrame]

theorem dispatcherCommand_frame {i : Instr} {s t : State} (hi : agentOf i = .dispatcherCommand)
    (h : exec i s = .next t) : DispatcherFrame s t := by
  cases i <;> simp only [agentOf, reduceCtorEq] at hi <;>
    simp only [exec, execEnable, execDisable, execClear, execDispatch, execTret] at h
  case install arg =>
    obtain ⟨-, h⟩ := execInstall_next h
    rcases h with ⟨-, c, rfl⟩ | ⟨-, -, -, rfl⟩ | ⟨-, rfl⟩ | ⟨w, u, -, hu, rfl⟩ | ⟨w, u, -, hu, rfl⟩ | ⟨-, rfl⟩
    · simp [DispatcherFrame]
    · simp [DispatcherFrame]
    · simp [DispatcherFrame]
    · have hf := memWrite_dispatcherFrame hu; exact hf
    · have hf := memWrite_dispatcherFrame hu; exact hf
    · simp [DispatcherFrame]
  all_goals
    obtain ⟨-, ⟨c, -, rfl⟩ | ⟨-, -, -, h⟩⟩ := command_next h
    · simp [DispatcherFrame]
  case enable => exact writeSlot_frame activate_frame h
  case disable => exact writeSlot_frame (fun s => by simp [DispatcherFrame]) h
  case clear => exact writeSlot_frame (fun s => by simp [DispatcherFrame]) h
  all_goals cases h; simp [DispatcherFrame]

/-- No instruction changes the parameters. -/
theorem exec_params {i : Instr} {s t : State} (h : exec i s = .next t) : t.params = s.params := by
  cases hi : agentOf i
  · exact (clockCommand_frame hi h).1
  · exact (dispatcherCommand_frame hi h).1
  · exact (delayUnit_frame hi h).1
  · exact (sequencer_frame hi h).1

/-! ### Everything a step can have done -/

/-- What a step that answered `t` did in a block that has not halted, `es` being the schedule left: an event of the
environment, an instruction of one of the three ports with the condition under which it was its turn, a delivery. -/
inductive Did (s : State) (es : List Event) : State → Prop
  | tick : Did s es (s.withSched es).tick
  | env (e : Env) : Did s es { s with env := e }
  | raise (n : Nat) (hn : n < s.params.nslot) :
      Did s es ((s.withSched es).setLatch (pendAddr s.params n).toNat true)
  | trapFatal (c : FaultCode) (hq : s.quiet = true) : Did s es ((s.withSched es).fatal c)
  | trap (v : Word) (hs : s.env.sched = .trap v :: es) (hq : s.quiet = true) (hv : trapAdmitted s v = true)
      (hd : s.itd.dispState ≠ .uninstalled) (hp : s.itd.trapPhase = .idle) : Did s es ((s.withSched es).enterTrap v)
  | delay (w : BitVec 67) (i : Instr) (t : State) (hr : s.du.req = some w) (hd : decode (.delay w) = .ok i)
      (hx : exec i (s.withSched es) = .next t) : Did s es t
  | micro (i : Instr) (t : State) (hr : s.du.req = none) (hp : s.seq.pc ≠ .idle)
      (hd : decode (.micro s.seq.pc.code) = .ok i) (hx : exec i (s.withSched es) = .next t) : Did s es t
  | cmd (w : BitVec 40) (t : State) (hr : s.du.req = none) (hp : s.seq.pc = .idle)
      (hc : s.port.cmd = some w ∨ s.hostReady = true)
      (hx : runWord (.command w) { s.withSched es with port := { s.port with cmd := some w } } = .next t) : Did s es t
  | deliver (hr : s.du.req = none) (hp : s.seq.pc = .idle) (hc : s.port.cmd = none) (hd : s.deliverable = true) :
      Did s es (s.withSched es).deliver

theorem decode_delay_ne_reserved (w : BitVec 67) (op : BitVec 8) : decode (.delay w) ≠ .error (.reservedOpcode op) := by
  simp only [decode, decodeDelay, decodeDuration]
  repeat' split
  all_goals simp

theorem decode_micro_ne_reserved (c : BitVec 6) (op : BitVec 8) : decode (.micro c) ≠ .error (.reservedOpcode op) := by
  simp only [decode, decodeMicro]
  split <;> simp

/-- A turn of the block's own agents. -/
theorem own_did {s t : State} {es : List Event} (h : act (ownAction s) (s.withSched es) = .next t) :
    s.port.halted = false ∧ Did s es t := by
  rcases ownAction_cases s with ⟨w, hr, ha⟩ | ⟨hr, hp, ha⟩ | ⟨w, hr, hp, hc, ha⟩ | ⟨hr, hp, hc, hd, ha⟩ |
    ⟨-, -, -, -, ha⟩ <;> rw [ha] at h <;> simp only [act] at h <;> obtain ⟨hh, h⟩ := unlessHalted_next h <;>
    refine ⟨hh, ?_⟩
  · rcases runWord_next h with ⟨i, hi, hx⟩ | ⟨op, ho, -⟩
    · exact .delay w i t hr hi hx
    · exact absurd ho (decode_delay_ne_reserved _ _)
  · rcases runWord_next h with ⟨i, hi, hx⟩ | ⟨op, ho, -⟩
    · exact .micro i t hr hp hi hx
    · exact absurd ho (decode_micro_ne_reserved _ _)
  · refine .cmd w t hr hp (.inl hc) ?_
    rw [← h, ← hc]
  · cases h; exact .deliver hr hp hc hd
  · cases h; exact .env _

/-- A step that answers a next state was the hardware reset, or did one of these in a block that has not halted. -/
theorem step_did {s t : State} (h : step s = .next t) : s.params.ok = true ∧ ∃ es,
    (s.env.sched = .reset :: es ∧ t = (s.withSched es).hardReset) ∨ (s.port.halted = false ∧ Did s es t) := by
  obtain ⟨hp, h⟩ := step_next h
  refine ⟨hp, ?_⟩
  unfold nextAction at h
  split at h
  · exact ⟨s.env.sched, .inr (own_did h)⟩
  · exact ⟨_, .inr (own_did h)⟩
  · split at h
    · rename_i w es _ hr
      obtain ⟨hh, h⟩ := unlessHalted_next h
      have hq := hr
      simp only [State.hostReady, Bool.and_eq_true] at hq
      obtain ⟨q1, q2, -⟩ := quiet_iff.1 hq.1
      exact ⟨es, .inr ⟨hh, .cmd w t q1 q2 (.inr hr) h⟩⟩
    · exact ⟨s.env.sched, .inr (own_did h)⟩
  · split at h
    · rename_i v es hs hq
      obtain ⟨hh, h⟩ := unlessHalted_next h
      simp only [occur, injectTrap] at h
      refine ⟨es, .inr ⟨hh, ?_⟩⟩
      split at h
      · rename_i hv
        split at h
        · cases h; exact .trapFatal _ hq
        · rename_i hd
          split at h
          · cases h; exact .trapFatal _ hq
          · rename_i hp
            cases h; exact .trap v hs hq hv hd (Classical.not_not.1 hp)
      · cases h
    · exact ⟨s.env.sched, .inr (own_did h)⟩
  · rename_i e es h1 h2 h3 hs
    refine ⟨es, ?_⟩
    cases e with
    | reset =>
      simp only [act, occur] at h
      cases h; exact .inl ⟨hs, rfl⟩
    | trap v => exact absurd rfl (h3 v)
    | cmd w => exact absurd rfl (h2 w)
    | own => exact absurd rfl h1
    | tick => obtain ⟨hh, h⟩ := unlessHalted_next h; cases h; exact .inr ⟨hh, .tick⟩
    | xtal b => obtain ⟨hh, h⟩ := unlessHalted_next h; cases h; exact .inr ⟨hh, .env _⟩
    | raise n =>
      obtain ⟨hh, h⟩ := unlessHalted_next h
      simp only [occur, irqRaise] at h
      split at h
      · cases h; exact .inr ⟨hh, .raise n ‹_›⟩
      · cases h

/-- At a turn of the block's own agents the step is that agent's. -/
theorem nextAction_ownTurn {s s1 : State} (h : ownTurn s s1) : nextAction s = (ownAction s, s1) := by
  rcases h with ⟨h, rfl⟩ | ⟨r, h, rfl⟩ | ⟨w, r, h, h2, rfl⟩ | ⟨v, r, h, h2, rfl⟩ <;> simp [nextAction, *]

/-- Such a turn uses up at most an entry of the schedule. -/
theorem ownTurn_withSched {s s1 : State} (h : ownTurn s s1) : ∃ es, s1 = s.withSched es := by
  rcases h with ⟨h, rfl⟩ | ⟨r, h, rfl⟩ | ⟨w, r, h, h2, rfl⟩ | ⟨v, r, h, h2, rfl⟩
  · exact ⟨s1.env.sched, rfl⟩
  · exact ⟨r, rfl⟩
  · exact ⟨s1.env.sched, rfl⟩
  · exact ⟨s1.env.sched, rfl⟩

theorem deliver_params (s : State) : s.deliver.params = s.params := by
  rcases deliver_cases s with h | ⟨n, -, h⟩
  · rw [h]
  · rw [h]; rfl

end Sys2Proof.Machine
end

