-- ==== Sys2Proof/Laws/PerInstr.lean ====
section
/-! SUPPORT. A law of every instruction, one lemma for each: the word the encoder builds for it has, on its own port, the
operation code of spec/opcode_table.json in its operation field and the operand in its operand field. -/

namespace Sys2Proof.Laws.OpcodeBits

/-- The width of a word's port, its operation field and its operand field (30_encoding.md rule R101, rule R111, rule
R112). -/
def fields : FetchWord → Nat × Nat × Nat
  | .command w => (40, (opcodeOf w).toNat, (argOf w).toNat)
  | .delay w => (67, (duOpOf w).toNat, (duArgOf w).toNat)
  | .micro pc => (6, pc.toNat, 0)

/-- The width, the operation code of the opcode table, and the operand as a number. -/
def row : Instr → Nat × Nat × Nat
  | .cfgSysclk arg => (40, 0x01, arg.toNat)
  | .cfgUart arg => (40, 0x02, arg.toNat)
  | .cfgSpi arg => (40, 0x03, arg.toNat)
  | .cfgXtal arg => (40, 0x04, arg.toNat)
  | .freeze arg => (40, 0x05, arg.toNat)
  | .rdSysclk arg => (40, 0x08, arg.toNat)
  | .rdUart arg => (40, 0x09, arg.toNat)
  | .rdSpi arg => (40, 0x0A, arg.toNat)
  | .rdPllen arg => (40, 0x0B, arg.toNat)
  | .rdXtal arg => (40, 0x0C, arg.toNat)
  | .install arg => (40, 0x10, arg.toNat)
  | .enable arg => (40, 0x11, arg.toNat)
  | .disable arg => (40, 0x12, arg.toNat)
  | .clear arg => (40, 0x13, arg.toNat)
  | .dispatch arg => (40, 0x14, arg.toNat)
  | .tret arg => (40, 0x15, arg.toNat)
  | .now => (67, 0, 0)
  | .elapsed since => (67, 1, since.toNat)
  | .waitCycles n => (67, 2, n.toNat)
  | .waitMicros us => (67, 3, us.toNat)
  | .waitMillis ms => (67, 4, ms.toNat)
  | .sSafe => (6, 1, 0)
  | .sReach => (6, 2, 0)
  | .sXtalOn => (6, 3, 0)
  | .sPollWait => (6, 4, 0)
  | .sPollRead => (6, 5, 0)
  | .sPllLookup => (6, 6, 0)
  | .sPllFb => (6, 7, 0)
  | .sPllCp => (6, 8, 0)
  | .sPllPd => (6, 9, 0)
  | .sPuBias => (6, 10, 0)
  | .sPuCore => (6, 11, 0)
  | .sPuCpdiv => (6, 12, 0)
  | .sSdmSet => (6, 13, 0)
  | .sSdmClr => (6, 14, 0)
  | .sFbdvSet => (6, 15, 0)
  | .sFbdvClr => (6, 16, 0)
  | .sTaps => (6, 17, 0)
  | .sPllsel => (6, 18, 0)
  | .sTapsel => (6, 19, 0)
  | .sBusdiv => (6, 20, 0)
  | .sIcache => (6, 21, 0)
  | .sSwitch => (6, 22, 0)
  | .sShadow => (6, 23, 0)
  | .sSettle => (6, 24, 0)
  | .sDivcalc => (6, 30, 0)
  | .sUartdiv => (6, 31, 0)
  | .sSpidiv => (6, 32, 0)
  | .sDone => (6, 33, 0)
  | .sTimeout => (6, 40, 0)

/-- The encoder puts the table's row into the word. -/
def Statement (i : Instr) : Prop := fields (encode i) = row i

theorem command_fields (op : BitVec 8) (arg : Word) : fields (commandWord op arg) = (40, op.toNat, arg.toNat) := by
  simp only [fields, commandWord, opcodeOf_append, argOf_append]

theorem delay_fields (op : BitVec 3) (a : BitVec 64) : fields (.delay (duWord op a)) = (67, op.toNat, a.toNat) := by
  simp only [fields, duOpOf_duWord, duArgOf_duWord]

theorem duration_toNat (d : BitVec 32) : (d.setWidth 64).toNat = d.toNat := by
  rw [BitVec.toNat_setWidth, Nat.mod_eq_of_lt (Nat.lt_trans d.isLt (by decide))]

theorem cfgSysclk (arg : Word) : Statement (.cfgSysclk arg) := command_fields _ arg
theorem cfgUart (arg : Word) : Statement (.cfgUart arg) := command_fields _ arg
theorem cfgSpi (arg : Word) : Statement (.cfgSpi arg) := command_fields _ arg
theorem cfgXtal (arg : Word) : Statement (.cfgXtal arg) := command_fields _ arg
theorem freeze (arg : Word) : Statement (.freeze arg) := command_fields _ arg
theorem rdSysclk (arg : Word) : Statement (.rdSysclk arg) := command_fields _ arg
theorem rdUart (arg : Word) : Statement (.rdUart arg) := command_fields _ arg
theorem rdSpi (arg : Word) : Statement (.rdSpi arg) := command_fields _ arg
theorem rdPllen (arg : Word) : Statement (.rdPllen arg) := command_fields _ arg
theorem rdXtal (arg : Word) : Statement (.rdXtal arg) := command_fields _ arg
theorem install (arg : Word) : Statement (.install arg) := command_fields _ arg
theorem enable (arg : Word) : Statement (.enable arg) := command_fields _ arg
theorem disable (arg : Word) : Statement (.disable arg) := command_fields _ arg
theorem clear (arg : Word) : Statement (.clear arg) := command_fields _ arg
theorem dispatch (arg : Word) : Statement (.dispatch arg) := command_fields _ arg
theorem tret (arg : Word) : Statement (.tret arg) := command_fields _ arg
theorem now : Statement .now := delay_fields _ _
theorem elapsed (since : Cycles) : Statement (.elapsed since) := delay_fields _ since
theorem waitCycles (n : Cycles) : Statement (.waitCycles n) := delay_fields _ n

theorem waitMicros (us : BitVec 32) : Statement (.waitMicros us) := by
  rw [Statement, encode, delay_fields, duration_toNat]; rfl

theorem waitMillis (ms : BitVec 32) : Statement (.waitMillis ms) := by
  rw [Statement, encode, delay_fields, duration_toNat]; rfl

theorem sSafe : Statement .sSafe := rfl
theorem sReach : Statement .sReach := rfl
theorem sXtalOn : Statement .sXtalOn := rfl
theorem sPollWait : Statement .sPollWait := rfl
theorem sPollRead : Statement .sPollRead := rfl
theorem sPllLookup : Statement .sPllLookup := rfl
theorem sPllFb : Statement .sPllFb := rfl
theorem sPllCp : Statement .sPllCp := rfl
theorem sPllPd : Statement .sPllPd := rfl
theorem sPuBias : Statement .sPuBias := rfl
theorem sPuCore : Statement .sPuCore := rfl
theorem sPuCpdiv : Statement .sPuCpdiv := rfl
theorem sSdmSet : Statement .sSdmSet := rfl
theorem sSdmClr : Statement .sSdmClr := rfl
theorem sFbdvSet : Statement .sFbdvSet := rfl
theorem sFbdvClr : Statement .sFbdvClr := rfl
theorem sTaps : Statement .sTaps := rfl
theorem sPllsel : Statement .sPllsel := rfl
theorem sTapsel : Statement .sTapsel := rfl
theorem sBusdiv : Statement .sBusdiv := rfl
theorem sIcache : Statement .sIcache := rfl
theorem sSwitch : Statement .sSwitch := rfl
theorem sShadow : Statement .sShadow := rfl
theorem sSettle : Statement .sSettle := rfl
theorem sDivcalc : Statement .sDivcalc := rfl
theorem sUartdiv : Statement .sUartdiv := rfl
theorem sSpidiv : Statement .sSpidiv := rfl
theorem sDone : Statement .sDone := rfl
theorem sTimeout : Statement .sTimeout := rfl

end Sys2Proof.Laws.OpcodeBits
end

