-- ==== Sys2Proof/Tests/Slice0.lean ====
section
/-! SUPPORT. Tests: the operand checks refuse ill-formed terms, every constructor's word decodes, one step of each
instruction on a small state, and a state that meets the hypotheses of each statement. Expected results are those of
95_test_vectors.md (named at each test) or hand calculation from the rules. -/

namespace Sys2Proof.Tests

open Sys2Proof.Machine

/-! ### The operand checks refuse (30_encoding.md rule R103) -/

theorem test_wf_sysclk_no_key : (Instr.cfgSysclk 4#32).wellFormed .default = false := by decide
theorem test_wf_sysclk_high_bits : (Instr.cfgSysclk 0x103#32).wellFormed .default = false := by decide
theorem test_wf_uart_zero : (Instr.cfgUart 0#32).wellFormed .default = false := by decide
theorem test_wf_spi_zero : (Instr.cfgSpi 0#32).wellFormed .default = false := by decide
theorem test_wf_xtal_zero : (Instr.cfgXtal 0#32).wellFormed .default = false := by decide
theorem test_wf_zero_operand :
    ([Instr.freeze 1#32, .rdSysclk 1#32, .rdUart 1#32, .rdSpi 1#32, .rdPllen 1#32, .rdXtal 1#32, .tret 1#32].any
      (·.wellFormed .default)) = false := by decide
theorem test_wf_identity :
    ([Instr.enable 4#32, .disable 4#32, .clear 4#32, .enable 0x103#32, .disable 0x103#32, .clear 0x103#32].any
      (·.wellFormed .default)) = false := by decide
theorem test_wf_accepts :
    ([Instr.cfgSysclk 3#32, .cfgUart 1#32, .freeze 0#32, .enable 0xFF#32, .install 0#32, .dispatch 7#32].all
      (·.wellFormed .default)) = true := by decide

/-! ### Every constructor's word (30_encoding.md rule R101, rule R102, rule R111, rule R112) -/

theorem test_decode_cfgSysclk : decode (.command 0x0100000003#40) = .ok (.cfgSysclk 3#32) := by decide
theorem test_decode_cfgUart : decode (.command 0x0202625A00#40) = .ok (.cfgUart 40000000#32) := by decide
theorem test_decode_cfgSpi : decode (.command 0x03004C4B40#40) = .ok (.cfgSpi 5000000#32) := by decide
theorem test_decode_cfgXtal : decode (.command 0x0402625A00#40) = .ok (.cfgXtal 40000000#32) := by decide
theorem test_decode_freeze : decode (.command 0x0500000000#40) = .ok (.freeze 0#32) := by decide
theorem test_decode_rdSysclk : decode (.command 0x0800000000#40) = .ok (.rdSysclk 0#32) := by decide
theorem test_decode_rdUart : decode (.command 0x0900000001#40) = .ok (.rdUart 1#32) := by decide
theorem test_decode_rdSpi : decode (.command 0x0A00000000#40) = .ok (.rdSpi 0#32) := by decide
theorem test_decode_rdPllen : decode (.command 0x0B00000000#40) = .ok (.rdPllen 0#32) := by decide
theorem test_decode_rdXtal : decode (.command 0x0C00000000#40) = .ok (.rdXtal 0#32) := by decide
theorem test_decode_install : decode (.command 0x1022000100#40) = .ok (.install 0x22000100#32) := by decide
theorem test_decode_enable : decode (.command 0x1100000103#40) = .ok (.enable 0x103#32) := by decide
theorem test_decode_disable : decode (.command 0x1200000003#40) = .ok (.disable 3#32) := by decide
theorem test_decode_clear : decode (.command 0x1300000000#40) = .ok (.clear 0#32) := by decide
theorem test_decode_dispatch : decode (.command 0x144200FF00#40) = .ok (.dispatch 0x4200FF00#32) := by decide
theorem test_decode_tret : decode (.command 0x1500000000#40) = .ok (.tret 0#32) := by decide
theorem test_decode_now : decode (.delay 0x00000000000000000#67) = .ok .now := by decide
theorem test_decode_elapsed :
    decode (.delay 0x1FFFFFFFFFFFFFFFA#67) = .ok (.elapsed 0xFFFFFFFFFFFFFFFA#64) := by decide
theorem test_decode_waitCycles : decode (.delay 0x20000000000000140#67) = .ok (.waitCycles 320#64) := by decide
theorem test_decode_waitMicros : decode (.delay 0x3000000000000000A#67) = .ok (.waitMicros 10#32) := by decide
theorem test_decode_waitMillis : decode (.delay 0x40000000000000002#67) = .ok (.waitMillis 2#32) := by decide
theorem test_decode_duration_high_bits :
    decode (.delay 0x3000000010000000A#67) = .error (.duArgHighBits 0x10000000A#64) := by decide
theorem test_decode_sSafe : decode (.micro 0b000001#6) = .ok .sSafe := by decide
theorem test_decode_sReach : decode (.micro 0b000010#6) = .ok .sReach := by decide
theorem test_decode_sXtalOn : decode (.micro 0b000011#6) = .ok .sXtalOn := by decide
theorem test_decode_sPollWait : decode (.micro 0b000100#6) = .ok .sPollWait := by decide
theorem test_decode_sPollRead : decode (.micro 0b000101#6) = .ok .sPollRead := by decide
theorem test_decode_sPllLookup : decode (.micro 0b000110#6) = .ok .sPllLookup := by decide
theorem test_decode_sPllFb : decode (.micro 0b000111#6) = .ok .sPllFb := by decide
theorem test_decode_sPllCp : decode (.micro 0b001000#6) = .ok .sPllCp := by decide
theorem test_decode_sPllPd : decode (.micro 0b001001#6) = .ok .sPllPd := by decide
theorem test_decode_sPuBias : decode (.micro 0b001010#6) = .ok .sPuBias := by decide
theorem test_decode_sPuCore : decode (.micro 0b001011#6) = .ok .sPuCore := by decide
theorem test_decode_sPuCpdiv : decode (.micro 0b001100#6) = .ok .sPuCpdiv := by decide
theorem test_decode_sSdmSet : decode (.micro 0b001101#6) = .ok .sSdmSet := by decide
theorem test_decode_sSdmClr : decode (.micro 0b001110#6) = .ok .sSdmClr := by decide
theorem test_decode_sFbdvSet : decode (.micro 0b001111#6) = .ok .sFbdvSet := by decide
theorem test_decode_sFbdvClr : decode (.micro 0b010000#6) = .ok .sFbdvClr := by decide
theorem test_decode_sTaps : decode (.micro 0b010001#6) = .ok .sTaps := by decide
theorem test_decode_sPllsel : decode (.micro 0b010010#6) = .ok .sPllsel := by decide
theorem test_decode_sTapsel : decode (.micro 0b010011#6) = .ok .sTapsel := by decide
theorem test_decode_sBusdiv : decode (.micro 0b010100#6) = .ok .sBusdiv := by decide
theorem test_decode_sIcache : decode (.micro 0b010101#6) = .ok .sIcache := by decide
theorem test_decode_sSwitch : decode (.micro 0b010110#6) = .ok .sSwitch := by decide
theorem test_decode_sShadow : decode (.micro 0b010111#6) = .ok .sShadow := by decide
theorem test_decode_sSettle : decode (.micro 0b011000#6) = .ok .sSettle := by decide
theorem test_decode_sDivcalc : decode (.micro 0b011110#6) = .ok .sDivcalc := by decide
theorem test_decode_sUartdiv : decode (.micro 0b011111#6) = .ok .sUartdiv := by decide
theorem test_decode_sSpidiv : decode (.micro 0b100000#6) = .ok .sSpidiv := by decide
theorem test_decode_sDone : decode (.micro 0b100001#6) = .ok .sDone := by decide
theorem test_decode_sTimeout : decode (.micro 0b101000#6) = .ok .sTimeout := by decide
theorem test_decode_reserved :
    ([0x0000000000#40, 0x0600000000#40, 0x0700000000#40, 0x0D00000000#40, 0x0F00000000#40, 0x1600000000#40,
      0xFF00000000#40].all fun w => decode (.command w) matches .error (.reservedOpcode _)) = true := by decide
theorem test_decode_never :
    ([0#6, 25#6, 29#6, 34#6, 39#6, 41#6, 63#6].all fun c => decode (.micro c) == .error (.noMicroStep c)) = true := by
  decide
theorem test_table_word : decodeTableWord 40 0x0100000003 = some (.cfgSysclk 3#32) := by decide
theorem test_table_word_micro : decodeTableWord 8 40 = some .sTimeout := by decide

/-! ### Small states -/

/-- What a result's next state satisfies; false for a stop. -/
def after (r : Result) (p : State → Bool) : Bool :=
  match r with
  | .next t => p t
  | _ => false

theorem exists_of_after {r : Result} {p : State → Bool} (h : after r p = true) : ∃ t, r = .next t ∧ p t = true := by
  match r with
  | .next t => exact ⟨t, rfl, h⟩

/-- The block right after reset. -/
def fresh : State := .reset

/-- The response is `(OK, d)` and the block has not halted. -/
def okWith (d : Word) (t : State) : Bool := t.port.rspStatus == .ok && t.port.rspData == d && !t.port.halted

/-- The block halted with a code, and responded `(FATAL, code)`. -/
def halts (c : FaultCode) (t : State) : Bool :=
  t.port.halted && t.port.faultCode == c && t.port.rspStatus == .fatal && t.port.rspData == c.code.setWidth 32

/-- The sequencer at a micro-step, with a target and an 8-bit poll count. -/
def atStep (pc : SeqPc) (tgtHz : Hz := 160000000#32) (count : BitVec 8 := 0#8) : State :=
  { fresh with seq := { fresh.seq with pc := pc, busy := true, tgtHz := tgtHz, tgtTap := 2#3, pollCnt := count } }

/-- A builder: the selection, the UART target, the SPI target, the crystal. -/
def builder (sel : BitVec 8) (uart spi xtal : Hz) : Builder :=
  let f := fun hz : Hz => (⟨hz != 0#32, hz⟩ : OptFreq)
  { tgtSysclk := sel, tgtUart := f uart, tgtSpi := f spi, xtal := f xtal }

/-- After INSTALL, in a trap phase, handling the watchdog where a handler runs. -/
def inPhase (ph : TrapPhase) : State :=
  { fresh with itd :=
    { fresh.itd with
      dispState := .vectorInstalled, globalIe := true, tvec := 0x22000100#32, trapPhase := ph, cause := 0x80000036#32
      handlerSel := if ph = .inHandler then 0b01000#5 else 0#5
      handlerFrame := if ph = .inHandler then 0x4200FF00#32 else 0#32 } }

/-- The watchdog enabled and pending, the dispatcher ACTIVE (V201). -/
def armed : State :=
  let s := inPhase .idle
  { s with itd := { s.itd with dispState := .active }, mem := [(0x02800036, 1#8), (0x02800436, 1#8)] }

/-- The state of the clock half after P2. -/
def frozen : State :=
  { fresh with
    seq := { fresh.seq with state := .frozen, coreFreq := 160000000#32 }
    ct := { fresh.ct with rootSel := 1#1, uartDiv := 4#8, spiDiv := 4#8 }
    clocks := ⟨true, 160000000#32, 40000000#32, 40000000#32, ⟨true, 40000000#32⟩, true⟩ }

/-- A request on the delay unit's port at a core frequency, the counter at a value. -/
def requesting (w : BitVec 67) (hz : Hz := 32000000#32) (cyc : Cycles := 100#64) : State :=
  { fresh with seq := { fresh.seq with coreFreq := hz }, du := { fresh.du with req := some w, cyc := cyc } }

/-- The same with a wait in progress. -/
def waiting (start n cyc : Cycles) : State :=
  let s := requesting (duWord 2#3 n) (cyc := cyc)
  { s with du := { s.du with waiting := true, waitStart := start, waitN := n } }

/-- The state with pending events. -/
def withEvents (s : State) (es : List Event) : State := { s with env := { s.env with sched := es } }

/-- The state with a command on the port. -/
def withCommand (s : State) (w : BitVec 40) : State := { s with port := { s.port with cmd := some w } }

/-- The state inside an INSTALL. -/
def installing (st : InstallStep) : State := { fresh with itd := { fresh.itd with install := some st } }

/-- The state halted by a fatal. -/
def halted : State := fresh.fatal .field

/-! ### One step of each instruction -/

theorem test_cfgSysclk_V30 : after (exec (.cfgSysclk 3#32) fresh) (fun t => t.cfg.tgtSysclk == 3#8 && okWith 0#32 t) := by
  decide
theorem test_cfgSysclk_V32 :
    after (exec (.cfgSysclk 4#32) fresh) (fun t => t.cfg.tgtSysclk == 0#8 && halts .field t) := by decide
theorem test_cfgUart_V34 :
    after (exec (.cfgUart 40000000#32) fresh) (fun t => t.cfg.tgtUart == ⟨true, 40000000#32⟩ && okWith 0#32 t) := by
  decide
theorem test_cfgUart_V41 : after (exec (.cfgUart 8000000#32) frozen) (halts .consumed) := by decide
theorem test_cfgSpi_V37 :
    after (exec (.cfgSpi 5000000#32) fresh) (fun t => t.cfg.tgtSpi == ⟨true, 5000000#32⟩ && !t.cfg.tgtUart.valid) := by
  decide
theorem test_cfgXtal_V42 :
    after (exec (.cfgXtal 40000000#32) { fresh with seq := { fresh.seq with state := .xtalTimeout } })
      (fun t => t.cfg.xtal == ⟨true, 40000000#32⟩ && okWith 0#32 t) := by decide
theorem test_freeze_starts :
    after (exec (.freeze 0#32) (withCommand fresh 0x0500000000#40))
      (fun t => t.seq.busy && t.seq.pc == .safe && t.port.cmd.isSome) := by decide
theorem test_freeze_V192 : after (exec (.freeze 1#32) frozen) (halts .field) := by decide
theorem test_rdSysclk_V44 : after (exec (.rdSysclk 0#32) frozen) (okWith 0x09896800#32) := by decide
theorem test_rdSysclk_V43 : after (exec (.rdSysclk 0#32) fresh) (halts .notFrozen) := by decide
theorem test_rdUart_V45 : after (exec (.rdUart 0#32) frozen) (okWith 0x02625A00#32) := by decide
theorem test_rdUart_V49 : after (exec (.rdUart 1#32) frozen) (halts .field) := by decide
theorem test_rdSpi_P2b :
    after (exec (.rdSpi 0#32) { frozen with clocks := { frozen.clocks with spiHz := 10000000#32 } })
      (okWith 0x00989680#32) := by decide
theorem test_rdPllen_V47 : after (exec (.rdPllen 0#32) frozen) (okWith 1#32) := by decide
theorem test_rdXtal_V48 : after (exec (.rdXtal 0#32) frozen) (okWith 0x02625A00#32) := by decide
theorem test_rdXtal_absent :
    after (exec (.rdXtal 0#32) { frozen with clocks := { frozen.clocks with xtal := ⟨false, 0#32⟩ } }) (okWith 0#32) := by
  decide
theorem test_install_first_word :
    after (exec (.install 0x22000100#32) (installing (.enWord 23)))
      (fun t => t.trace.mem == [⟨0x0280045C#32, 4, 0#32⟩] && t.itd.install == some (.pendWord 0)) := by decide
theorem test_install_V146 : after (exec (.install 0x22000100#32) (inPhase .idle)) (halts .reinstall) := by decide
theorem test_enable_V130 :
    after (exec (.enable 0#32) (inPhase .idle))
      (fun t => t.en 60 && t.itd.dispState == .active && t.trace.mem == [⟨0x0280043C#32, 1, 1#32⟩]) := by decide
theorem test_enable_V183 : after (exec (.enable 0xFF#32) fresh) (halts .notInstalled) := by decide
theorem test_disable_V137 :
    after (exec (.disable 3#32) armed)
      (fun t => !t.en 54 && t.pend 54 && t.trace.mem == [⟨0x02800436#32, 1, 0#32⟩]) := by decide
theorem test_disable_V148 :
    after (exec (.disable 3#32) (inPhase .idle)) (fun t => t.itd.dispState == .vectorInstalled && okWith 0#32 t) := by
  decide
theorem test_clear_V141 :
    after (exec (.clear 3#32) armed)
      (fun t => t.en 54 && !t.pend 54 && t.trace.mem == [⟨0x02800036#32, 1, 0#32⟩]) := by decide
theorem test_clear_V189 : after (exec (.clear 3#32) (inPhase .trapped)) (halts .badContext) := by decide
theorem test_dispatch_E5 :
    after (exec (.dispatch 0x4200FF00#32) (inPhase .trapped))
      (fun t => t.itd.handlerSel == 0b01000#5 && t.itd.handlerFrame == 0x4200FF00#32 && t.itd.trapPhase == .inHandler
        && t.trace.call == [(.wdt, 0x4200FF00#32)]) := by decide
theorem test_dispatch_V188 : after (exec (.dispatch 0#32) (inPhase .inHandler)) (halts .badContext) := by decide
theorem test_tret_V174 :
    after (exec (.tret 0#32) (inPhase .inHandler))
      (fun t => t.itd.trapPhase == .idle && t.itd.handlerSel == 0#5 && t.itd.handlerFrame == 0#32
        && t.itd.cause == 0x80000036#32) := by decide
theorem test_tret_V176 : after (exec (.tret 1#32) (inPhase .inHandler)) (halts .field) := by decide

theorem test_now_V3 :
    after (exec .now (requesting (duWord 0#3 0#64) (cyc := 10#64)))
      (fun t => t.du.reply == 10#64 && t.du.cyc == 10#64 && t.du.req.isNone) := by decide
theorem test_elapsed_V6 :
    after (exec (.elapsed 0xFFFFFFFFFFFFFFFA#64) (requesting (duWord 1#3 0xFFFFFFFFFFFFFFFA#64) (cyc := 10#64)))
      (fun t => t.du.reply == 16#64) := by decide
theorem test_elapsed_V8 :
    after (exec (.elapsed 1#64) (requesting (duWord 1#3 1#64) (cyc := 0#64)))
      (fun t => t.du.reply == 0xFFFFFFFFFFFFFFFF#64) := by decide
theorem test_waitCycles_V9 :
    after (exec (.waitCycles 0#64) (requesting (duWord 2#3 0#64)))
      (fun t => t.du.done && t.trace.clk == [.d 0#64] && t.du.req.isNone) := by decide
theorem test_waitCycles_V11 :
    after (exec (.waitCycles 16#64) (waiting 0xFFFFFFFFFFFFFFFA#64 16#64 9#64)) (fun t => !t.du.done)
      && after (exec (.waitCycles 16#64) (waiting 0xFFFFFFFFFFFFFFFA#64 16#64 10#64)) (fun t => t.du.done) := by decide
theorem test_waitMicros_V12 :
    after (exec (.waitMicros 10#32) (requesting (duWord 3#3 10#64))) (fun t => t.du.waitN == 320#64 && t.du.waiting) := by
  decide
theorem test_waitMicros_V20 :
    microsToCycles 0xFFFFFFFF#32 0xFFFFFFFF#32 = 18446744065119#64 := by decide
theorem test_waitMillis_V21 :
    after (exec (.waitMillis 2#32) (requesting (duWord 4#3 2#64) (hz := 160000000#32)))
      (fun t => t.du.waitN == 320000#64) := by decide
theorem test_waitMillis_V22 : millisToCycles 60000#32 200000000#32 = 12000000000#64 := by decide

theorem test_sSafe :
    after (exec .sSafe (atStep .safe))
      (fun t => t.trace.clk == [.w .rootSel 0] && t.seq.coreFreq == 32000000#32 && t.seq.state == .safeDefault
        && t.seq.pc == .reach) := by decide
theorem test_sReach_V66 :
    after (exec .sReach { atStep .reach with cfg := builder 2#8 0#32 0#32 40000000#32 })
      (fun t => t.seq.tgtHz == 120000000#32 && t.seq.tgtTap == 1#3 && t.seq.pc == .xtalOn) := by decide
theorem test_sReach_V64 :
    after (exec .sReach { atStep .reach with cfg := builder 0#8 0#32 0#32 40000000#32 })
      (fun t => halts .sysclk t && t.seq.pc == .reach && t.seq.busy) := by decide
theorem test_sXtalOn :
    after (exec .sXtalOn (atStep .xtalOn (count := 9#8)))
      (fun t => t.seq.pollCnt == 0#8 && t.ct.xtalPu == 1#1 && t.seq.state == .crystalPowering && t.seq.pc == .pollWait) := by
  decide
theorem test_sPollWait_requests :
    after (exec .sPollWait (atStep .pollWait))
      (fun t => t.du.req == some 0x3000000000000000A#67 && t.seq.pc == .pollWait) := by decide
theorem test_sPollRead_V73 :
    after (exec .sPollRead { atStep .pollRead (count := 119#8) with env := ⟨[], [false], 0, 0⟩ })
      (fun t => t.seq.pollCnt == 120#8 && t.seq.pc == .timeout && t.trace.clk == [.r false]) := by decide
theorem test_sPollRead_V74 :
    after (exec .sPollRead { atStep .pollRead (count := 119#8) with env := ⟨[], [true], 0, 0⟩ })
      (fun t => t.seq.pollCnt == 120#8 && t.seq.pc == .pllLookup) := by decide
theorem test_sTimeout :
    after (exec .sTimeout (withCommand { atStep .timeout with cfg := builder 3#8 0#32 0#32 40000000#32 } 0x0500000000#40))
      (fun t => t.port.rspStatus == .timeout && t.seq.state == .xtalTimeout && !t.seq.busy && !t.cfg.xtal.valid
        && t.cfg.tgtSysclk == 0#8 && t.port.cmd.isNone) := by decide
theorem test_sPllLookup_V80 :
    after (exec .sPllLookup { atStep .pllLookup with cfg := builder 3#8 0#32 0#32 40000000#32 })
      (fun t => t.seq.pc == .pllFb && t.seq.state == .pllConfiguring && !t.port.halted) := by decide
theorem test_sPllLookup_V83 :
    after (exec .sPllLookup { atStep .pllLookup with cfg := builder 3#8 0#32 0#32 39999999#32 })
      (fun t => halts .xtalFreq t && t.seq.state == .pllConfiguring) := by decide
theorem test_sPllFb :
    after (exec .sPllFb (atStep .pllFb)) (fun t => t.seq.pc == .pllCp && t.trace.clk.length == 1) := by decide
theorem test_sPllCp :
    after (exec .sPllCp (atStep .pllCp)) (fun t => t.seq.pc == .pllPd && t.trace.clk.length == 1) := by decide
theorem test_sPllPd :
    after (exec .sPllPd (atStep .pllPd)) (fun t => t.seq.pc == .puBias && t.trace.clk.length == 1) := by decide
theorem test_sPuBias :
    after (exec .sPuBias (atStep .puBias))
      (fun t => t.trace.clk == [.w .pllBiasEn 1] && t.seq.state == .pllPoweringUp && t.du.req == some 0x30000000000000005#67) := by
  decide
theorem test_sPuCore :
    after (exec .sPuCore (atStep .puCore)) (fun t => t.ct.pllCoreEn == 1#1 && t.seq.pc == .puCore && t.du.req.isSome) := by
  decide
theorem test_sPuCpdiv :
    after (exec .sPuCpdiv { atStep .puCpdiv with du := { fresh.du with done := true } })
      (fun t => t.seq.pc == .sdmSet && !t.du.done && t.trace.clk == []) := by decide
theorem test_sSdmSet :
    after (exec .sSdmSet (atStep .sdmSet)) (fun t => t.ct.pllSdmRst == 1#1 && t.trace.clk == [.w .pllSdmRst 1]) := by decide
theorem test_sSdmClr :
    after (exec .sSdmClr { atStep .sdmClr with ct := { fresh.ct with pllSdmRst := 1#1 } })
      (fun t => t.ct.pllSdmRst == 0#1 && t.trace.clk == [.w .pllSdmRst 0]) := by decide
theorem test_sFbdvSet :
    after (exec .sFbdvSet (atStep .fbdvSet)) (fun t => t.ct.pllFbdvRst == 1#1 && t.trace.clk == [.w .pllFbdvRst 1]) := by
  decide
theorem test_sFbdvClr :
    after (exec .sFbdvClr { atStep .fbdvClr with ct := { fresh.ct with pllFbdvRst := 1#1 } })
      (fun t => t.ct.pllFbdvRst == 0#1 && t.trace.clk == [.w .pllFbdvRst 0]) := by decide
theorem test_sTaps :
    after (exec .sTaps (atStep .taps))
      (fun t => t.ct.pllTapEn == 0b1111#8 && t.seq.state == .pllStabilizing && t.seq.pc == .pllsel) := by decide
theorem test_sPllsel : after (exec .sPllsel (atStep .pllsel)) (fun t => t.ct.pllSelEn == 1#1 && t.seq.pc == .tapsel) := by
  decide
theorem test_sTapsel : after (exec .sTapsel (atStep .tapsel)) (fun t => t.ct.pllTapSel == 2#3 && t.seq.pc == .busdiv) := by
  decide
theorem test_sBusdiv_V94 :
    after (exec .sBusdiv (atStep .busdiv (tgtHz := 80000001#32)))
      (fun t => t.trace.clk == [.w .hclkDiv 1, .w .bclkDiv 2] && t.ct.bclkDiv == 2#9 && t.seq.pc == .icache) := by decide
theorem test_sBusdiv_V96 :
    let p := { fresh.params with bclkMaxHz := 1000000#32, bclkDivMax := 128 }
    after (exec .sBusdiv { atStep .busdiv with params := p })
      (fun t => halts .field t && t.trace.clk == [.w .hclkDiv 1]) := by decide
theorem test_sIcache_V91 :
    after (exec .sIcache (atStep .icache (tgtHz := 120000000#32))) (fun t => t.trace.clk == [] && t.seq.pc == .switch) := by
  decide
theorem test_sIcache_V95 :
    after (exec .sIcache (atStep .icache (tgtHz := 120000001#32))) (fun t => t.trace.clk == [.w .icacheWs 1]) := by decide
theorem test_sSwitch :
    after (exec .sSwitch (atStep .switch)) (fun t => t.ct.rootSel == 1#1 && t.seq.state == .rootClockSwitched) := by decide
theorem test_sShadow :
    after (exec .sShadow (atStep .shadow)) (fun t => t.seq.coreFreq == 160000000#32 && t.trace.clk == []) := by decide
theorem test_sSettle :
    after (exec .sSettle { atStep .settle with du := { fresh.du with done := true } }) (fun t => t.seq.pc == .divcalc) := by
  decide
theorem test_sDivcalc_V118 :
    after (exec .sDivcalc { atStep .divcalc with cfg := builder 3#8 33000000#32 33000000#32 40000000#32 })
      (fun t => halts .uartDiv t && t.trace.clk == []) := by decide
theorem test_sDivcalc_V119 :
    after (exec .sDivcalc { atStep .divcalc with cfg := builder 3#8 40000000#32 33000000#32 40000000#32 })
      (fun t => halts .spiDiv t && t.trace.clk == []) := by decide
theorem test_sUartdiv :
    after (exec .sUartdiv { atStep .uartdiv with seq := { (atStep .uartdiv).seq with uartDivC := 4#8, spiDivC := 9#8 } })
      (fun t => t.ct.uartDiv == 4#8 && t.trace.clk == [.w .uartDiv 4] && t.seq.pc == .spidiv) := by decide
theorem test_sSpidiv :
    after (exec .sSpidiv { atStep .spidiv with seq := { (atStep .spidiv).seq with uartDivC := 9#8, spiDivC := 16#8 } })
      (fun t => t.ct.spiDiv == 16#8 && t.trace.clk == [.w .spiDiv 16] && t.seq.pc == .done) := by decide
theorem test_sDone_V120 :
    after (exec .sDone { atStep .done with
        cfg := builder 3#8 40000000#32 10000000#32 40000000#32
        seq := { (atStep .done).seq with uartHzC := 40000000#32, spiHzC := 10000000#32 } })
      (fun t => t.clocks == ⟨true, 160000000#32, 40000000#32, 10000000#32, ⟨true, 40000000#32⟩, true⟩
        && t.seq.state == .frozen && !t.seq.busy && t.seq.pc == .idle && t.cfg == builder 0#8 0#32 0#32 0#32
        && okWith 0#32 t) := by decide

/-! ### The divider check, the cause decoder, the environment -/

theorem test_divcheck_V102 : divcheck 160000000#32 ⟨true, 10000000#32⟩ 7 = none := by decide
theorem test_divcheck_V107 : divcheck 160000000#32 ⟨true, 5000000#32⟩ 32 = some (32, 5000000#32) := by decide
theorem test_cause_V172 : decodeCause .default 0x80000136#32 = .wdt := by decide
theorem test_cause_V168 : decodeCause .default 0x00000036#32 = .exc := by decide
theorem test_tick_V2 :
    after (step (withEvents (requesting 0#67 (cyc := 0xFFFFFFFFFFFFFFFF#64)) [.tick])) (fun t => t.du.cyc == 0#64) := by
  decide
theorem test_raise_V200 :
    after (step (withEvents (inPhase .idle) [.raise 54])) (fun t => t.pend 54 && !t.deliverable) := by decide
theorem test_deliver_V201 :
    after (step armed)
      (fun t => t.itd.cause == 0x80000036#32 && t.itd.trapPhase == .trapped && t.itd.trapPc == 0x22000100#32) := by decide
theorem test_trap_V207 : after (step (withEvents fresh [.trap 2#32])) (halts .notInstalled) := by decide
theorem test_trap_V208 : after (step (withEvents (inPhase .inHandler) [.trap 2#32])) (halts .nestedTrap) := by decide
theorem test_reserved_V186 :
    after (step (withEvents (inPhase .trapped) [.cmd 0x1600000000#40])) (halts .illegalCmd) := by decide
theorem test_placed_command :
    after (step (fresh.withFetchWord 40 0x0100000003)) (fun t => t.cfg.tgtSysclk == 3#8) := by decide
theorem test_placed_micro : after (step (fresh.withFetchWord 8 1)) (fun t => t.seq.pc == .reach) := by decide
theorem test_placed_delay :
    after (step (fresh.withFetchWord 72 0x20000000000000000)) (fun t => t.du.done) := by decide

/-! ### States that meet the hypotheses of the statements, each clause at a boundary -/

/-- CfgSysclk: TRAPPED; a code one above the last key, and a bit above the code; the token spent; accepted in each of the
two states that have it. -/
theorem witness_cfgSysclk :
    (inPhase .trapped).port.halted = false ∧ (inPhase .trapped).itd.trapPhase = .trapped
      ∧ (fresh.itd.trapPhase ≠ .trapped ∧ (4#32).extractLsb' 8 24 = 0#24
          ∧ (fresh.params.sysclkEntry ((4#32).extractLsb' 0 8)).isSome = false)
      ∧ (0x100#32).extractLsb' 8 24 ≠ 0#24
      ∧ (frozen.seq.state ≠ .unconfigured ∧ frozen.seq.state ≠ .xtalTimeout ∧ frozen.itd.trapPhase ≠ .trapped
          ∧ (frozen.params.sysclkEntry ((3#32).extractLsb' 0 8)).isSome = true)
      ∧ (fresh.port.halted = false ∧ fresh.seq.state = .unconfigured
          ∧ (fresh.params.sysclkEntry ((0#32).extractLsb' 0 8)).isSome = true) := by decide

/-- CfgFrequencies: TRAPPED, the frequency 0, the token spent, the smallest and the largest frequency accepted. -/
theorem witness_cfgFrequencies :
    (inPhase .trapped).itd.trapPhase = .trapped ∧ fresh.port.halted = false ∧ fresh.itd.trapPhase ≠ .trapped
      ∧ (frozen.port.halted = false ∧ frozen.seq.state ≠ .unconfigured ∧ frozen.seq.state ≠ .xtalTimeout)
      ∧ (fresh.seq.state = .unconfigured ∧ (1#32 : Word) ≠ 0#32 ∧ (0xFFFFFFFF#32 : Word) ≠ 0#32) := by decide

/-- FreezeStarts: TRAPPED, a non-zero operand, the token spent, accepted. -/
theorem witness_freezeStarts :
    (inPhase .trapped).itd.trapPhase = .trapped
      ∧ (frozen.itd.trapPhase ≠ .trapped ∧ frozen.seq.state ≠ .unconfigured ∧ frozen.seq.state ≠ .xtalTimeout)
      ∧ (fresh.port.halted = false ∧ fresh.itd.trapPhase ≠ .trapped ∧ fresh.seq.state = .unconfigured) := by decide

/-- DescriptorReads: no descriptor; a descriptor with a crystal and the PLL, and one with neither. -/
theorem witness_descriptorReads :
    (fresh.port.halted = false ∧ fresh.itd.trapPhase ≠ .trapped ∧ fresh.clocks.valid = false)
      ∧ (frozen.port.halted = false ∧ frozen.itd.trapPhase ≠ .trapped ∧ frozen.clocks.valid = true
          ∧ frozen.clocks.pllEn = true ∧ frozen.clocks.xtal.valid = true)
      ∧ (let s : State := { frozen with clocks := ⟨true, 1#32, 1#32, 1#32, ⟨false, 0#32⟩, false⟩ }
         s.clocks.valid = true ∧ s.clocks.pllEn = false ∧ s.clocks.xtal.valid = false) := by decide

/-- InstallMicroSteps: not accepted yet; a second INSTALL; each micro-step, the first and the last word of each sweep. -/
theorem witness_installMicroSteps :
    (fresh.params.ok = true ∧ fresh.port.halted = false ∧ Memory.wf fresh.mem = true ∧ fresh.itd.install = none
        ∧ fresh.itd.trapPhase ≠ .trapped ∧ fresh.itd.dispState = .uninstalled)
      ∧ ((inPhase .idle).itd.install = none ∧ (inPhase .idle).itd.dispState ≠ .uninstalled)
      ∧ (inPhase .trapped).itd.trapPhase = .trapped
      ∧ (installing .vector).itd.install = some .vector
      ∧ (0 < fresh.params.bitmapWords ∧ (installing (.enWord 0)).itd.install = some (.enWord 0))
      ∧ (23 < fresh.params.bitmapWords ∧ (installing (.enWord 23)).itd.install = some (.enWord 23))
      ∧ (23 < fresh.params.bitmapWords ∧ (installing (.pendWord 23)).itd.install = some (.pendWord 23))
      ∧ (installing .finish).itd.install = some .finish := by decide

/-- EnableSlot, DisableAndClearSlot: each failing check; the first and the last identity accepted, before and after the
first ENABLE. -/
theorem witness_slotCommands :
    ((inPhase .idle).params.ok = true ∧ (inPhase .idle).port.halted = false ∧ Memory.wf armed.mem = true)
      ∧ (inPhase .trapped).itd.trapPhase = .trapped
      ∧ ¬ ((4#32).extractLsb' 8 24 = 0#24 ∧ (4#32).extractLsb' 0 8 ∈ [0x00#8, 0x01#8, 0x02#8, 0x03#8, 0xFF#8])
      ∧ ¬ ((0x103#32).extractLsb' 8 24 = 0#24 ∧ (0x103#32).extractLsb' 0 8 ∈ [0x00#8, 0x01#8, 0x02#8, 0x03#8, 0xFF#8])
      ∧ (fresh.itd.dispState = .uninstalled ∧ fresh.itd.trapPhase ≠ .trapped
          ∧ 0xFF#32 ∈ [0x00#32, 0x01#32, 0x02#32, 0x03#32, 0xFF#32])
      ∧ ((inPhase .idle).itd.trapPhase ≠ .trapped ∧ (inPhase .idle).itd.dispState ≠ .uninstalled
          ∧ (inPhase .idle).itd.dispState = .vectorInstalled)
      ∧ ((0#32, IrqId.gpio) ∈ [(0#32, IrqId.gpio), (1#32, .tch0), (2#32, .tch1), (3#32, .wdt)]
          ∧ (3#32, IrqId.wdt) ∈ [(0#32, IrqId.gpio), (1#32, .tch0), (2#32, .tch1), (3#32, .wdt)])
      ∧ (armed.itd.dispState = .active ∧ armed.itd.trapPhase ≠ .trapped ∧ armed.params.ok = true) := by decide

/-- DispatchSelects, TretReturns: the phase that accepts each, and one that does not. -/
theorem witness_trapCommands :
    ((inPhase .trapped).port.halted = false ∧ (inPhase .trapped).itd.trapPhase = .trapped)
      ∧ ((inPhase .inHandler).port.halted = false ∧ (inPhase .inHandler).itd.trapPhase = .inHandler)
      ∧ (fresh.itd.trapPhase ≠ .trapped ∧ fresh.itd.trapPhase ≠ .inHandler) := by decide

/-- NowAndElapsed, WaitCyclesCounts, WaitDurations: no wait in progress; a wait one cycle short, just over, and over
across the wrap. -/
theorem witness_waits :
    ((requesting (duWord 2#3 320#64)).port.halted = false ∧ (requesting (duWord 2#3 320#64)).du.waiting = false)
      ∧ (let s := waiting 100#64 320#64 419#64
         s.du.waiting = true ∧ (s.du.cyc - s.du.waitStart).toNat < s.du.waitN.toNat)
      ∧ (let s := waiting 100#64 320#64 420#64
         s.du.waiting = true ∧ s.du.waitN.toNat ≤ (s.du.cyc - s.du.waitStart).toNat)
      ∧ (let s := waiting 0xFFFFFFFFFFFFFFFA#64 16#64 10#64
         s.port.halted = false ∧ s.du.waitN.toNat ≤ (s.du.cyc - s.du.waitStart).toNat) := by decide

/-- StepReach: the four cases, under the default table. -/
theorem witness_stepReach :
    (fresh.port.halted = false ∧ fresh.cfg.xtal.valid = false
        ∧ fresh.params.sysclkEntry fresh.cfg.tgtSysclk = some ⟨0#8, 32000000#32, .rc⟩)
      ∧ (builder 3#8 0#32 0#32 0#32).xtal.valid = false ∧ (builder 0#8 0#32 0#32 1#32).xtal.valid = true
      ∧ fresh.params.sysclkEntry 3#8 = some ⟨3#8, 160000000#32, .tap 2#3⟩
      ∧ fresh.params.sysclkEntry 1#8 = some ⟨1#8, 48000000#32, .tap 0#3⟩ := by decide

/-- The statements of micro-steps without a case on the state: StepSafe, StepXtalOn, StepTimeout, PllParameterWrites,
SwitchAndShadow, DividerWrites, StepDone; and TapWrites, with admissible parameters. -/
theorem witness_plainSteps : (atStep .safe).port.halted = false ∧ (atStep .taps).params.ok = true := by decide

/-- PollAndSettleWait, PowerUpSequence: no request yet, a request standing, the wait over. -/
theorem witness_heldSteps :
    ((atStep .puBias).port.halted = false ∧ (atStep .puBias).du.done = false ∧ (atStep .puBias).du.req = none)
      ∧ ((requesting (duWord 3#3 5#64)).du.done = false ∧ (requesting (duWord 3#3 5#64)).du.req.isSome = true)
      ∧ ({ atStep .puBias with du := { fresh.du with done := true } } : State).du.done = true := by decide

/-- StepPollRead: an announced answer of each kind, and none announced. -/
theorem witness_stepPollRead :
    (atStep .pollRead).port.halted = false
      ∧ (∃ rest, ({ atStep .pollRead with env := ⟨[], [true], 0, 0⟩ } : State).env.xtalAnswers = true :: rest)
      ∧ (∃ rest, ({ atStep .pollRead with env := ⟨[], [false, true], 0, 0⟩ } : State).env.xtalAnswers = false :: rest)
      ∧ (atStep .pollRead).env.xtalAnswers = [] :=
  ⟨by decide, ⟨[], rfl⟩, ⟨[true], rfl⟩, rfl⟩

/-- StepPllLookup: a frequency of the table, and its neighbour (V84). -/
theorem witness_stepPllLookup :
    (atStep .pllLookup).port.halted = false ∧ (fresh.params.pllEntry 40000000#32).isSome = true
      ∧ fresh.params.pllEntry 40000001#32 = none := by decide

/-- StepBusdiv: `d` just in range and just above it, and the smallest target. -/
theorem witness_stepBusdiv :
    let s := atStep .busdiv (tgtHz := 160000000#32)
    let lim := fun max => { s.params with bclkMaxHz := 1000000#32, bclkDivMax := max }
    (s.params.ok = true ∧ s.port.halted = false ∧ 0 < s.seq.tgtHz.toNat)
      ∧ ((lim 160).ok = true ∧ (160000000 + 1000000 - 1) / 1000000 ≤ (lim 160).bclkDivMax)
      ∧ ((lim 159).ok = true ∧ (lim 159).bclkDivMax < (160000000 + 1000000 - 1) / 1000000)
      ∧ 0 < (atStep .busdiv (tgtHz := 1#32)).seq.tgtHz.toNat := by decide

/-- StepIcache: at the threshold and one above. -/
theorem witness_stepIcache :
    (atStep .icache).port.halted = false
      ∧ (atStep .icache (tgtHz := 120000000#32)).seq.tgtHz.toNat ≤ fresh.params.icacheWsThresholdHz.toNat
      ∧ fresh.params.icacheWsThresholdHz.toNat < (atStep .icache (tgtHz := 120000001#32)).seq.tgtHz.toNat := by decide

/-- DivcheckExact: absent; exact at the upper edge; exact but one above it; not exact. -/
theorem witness_divcheck :
    (OptFreq.absent).valid = false
      ∧ (7 * (5000000#32).toNat = (35000000#32).toNat ∧ 1 ≤ 7 ∧ 7 ≤ 7 ∧ (5000000#32 : Hz) ≠ 0#32)
      ∧ (∀ d, 1 ≤ d → d ≤ 7 → d * (20000000#32).toNat ≠ (160000000#32).toNat)
      ∧ divcheck 35000000#32 ⟨true, 5000000#32⟩ 7 = some (7, 5000000#32) := by
  refine ⟨by decide, by decide, ?_, by decide⟩
  intro d _ h2 h3
  simp only [BitVec.toNat_ofNat, Nat.reducePow, Nat.reduceMod] at h3
  omega

/-- StepDivcalc: the UART check failing, the SPI check alone failing, both passing. -/
theorem witness_stepDivcalc :
    (atStep .divcalc).params.ok = true ∧ (atStep .divcalc).port.halted = false
      ∧ divcheck 160000000#32 ⟨true, 33000000#32⟩ fresh.params.uartDivMax = none
      ∧ divcheck 160000000#32 ⟨true, 40000000#32⟩ fresh.params.uartDivMax = some (4, 40000000#32)
      ∧ divcheck 160000000#32 ⟨true, 33000000#32⟩ fresh.params.spiDivMax = none
      ∧ divcheck 160000000#32 ⟨true, 5000000#32⟩ fresh.params.spiDivMax = some (32, 5000000#32) := by decide

/-- StepRunsDecoded: a standing request, a micro-step, a command in progress, each at the block's turn by one of its four
causes; a command presented to a free block. -/
theorem witness_stepRunsDecoded :
    (let s := requesting (duWord 2#3 0#64)
     ownTurn s s ∧ s.params.ok = true ∧ s.port.halted = false ∧ s.du.req = some (duWord 2#3 0#64)
       ∧ decode (.delay (duWord 2#3 0#64)) = .ok (.waitCycles 0#64))
      ∧ (let s := withEvents (atStep .timeout) [.own]
         ownTurn s (withEvents (atStep .timeout) []) ∧ s.du.req = none
           ∧ decode (.micro s.seq.pc.code) = .ok .sTimeout)
      ∧ (let s := withEvents (withCommand fresh 0x0500000000#40) [.cmd 0#40]
         ownTurn s s ∧ s.du.req = none ∧ s.seq.pc = .idle ∧ s.port.cmd = some 0x0500000000#40
           ∧ decode (.command 0x0500000000#40) = .ok (.freeze 0#32))
      ∧ (let s := withEvents (withCommand fresh 0x0500000000#40) [.trap 2#32]
         ownTurn s s)
      ∧ (let s := withEvents fresh [.cmd 0x1022000100#40]
         s.hostReady = true ∧ s.env.sched = [.cmd 0x1022000100#40]
           ∧ decode (.command 0x1022000100#40) = .ok (.install 0x22000100#32)) :=
  ⟨⟨.inl ⟨rfl, rfl⟩, by decide, by decide, rfl, by decide⟩, ⟨.inr (.inl ⟨[], rfl, rfl⟩), rfl, by decide⟩,
    ⟨.inr (.inr (.inl ⟨_, [], rfl, by decide, rfl⟩)), rfl, rfl, rfl, by decide⟩,
    .inr (.inr (.inr ⟨_, [], rfl, by decide, rfl⟩)), by decide, rfl, by decide⟩

/-- ReservedOpcodeFatal: the codes beside the last one of each group, in TRAPPED too. -/
theorem witness_reservedOpcode :
    (let s := withEvents (inPhase .trapped) [.cmd 0x1600000000#40]
     s.params.ok = true ∧ s.port.halted = false ∧ s.hostReady = true)
      ∧ (0x1600000000#40).extractLsb' 32 8 ∉ [0x01#8, 0x02#8, 0x03#8, 0x04#8, 0x05#8, 0x08#8, 0x09#8, 0x0A#8, 0x0B#8,
        0x0C#8, 0x10#8, 0x11#8, 0x12#8, 0x13#8, 0x14#8, 0x15#8]
      ∧ (0x06FFFFFFFF#40).extractLsb' 32 8 ∉ [0x01#8, 0x02#8, 0x03#8, 0x04#8, 0x05#8, 0x08#8, 0x09#8, 0x0A#8, 0x0B#8,
        0x0C#8, 0x10#8, 0x11#8, 0x12#8, 0x13#8, 0x14#8, 0x15#8] := by decide

/-- RefusedInputs: the first slot that does not exist; an interrupt cause before INSTALL; the first and the last operation
that never occurs; a selection that is no key; a duration one above 32 bits and one with the top bit; a width of 2; the
bytes beside the two regions; a misaligned word inside a region and an aligned one just past it. -/
theorem witness_refusedInputs :
    (fresh.params.ok = true ∧ fresh.port.halted = false ∧ fresh.params.nslot ≤ 96
        ∧ (withEvents fresh [.raise 96]).env.sched = [.raise 96])
      ∧ (let s := withEvents fresh [.trap 0x80000000#32]
         s.quiet = true ∧ (0x80000000#32).getLsbD 31 = true ∧ s.itd.globalIe = false)
      ∧ (requesting (duWord 5#3 0#64)).du.req = some (duWord 5#3 0#64)
      ∧ (requesting (duWord 7#3 0#64)).du.req = some (duWord 7#3 0#64)
      ∧ ((0x100000000#64).extractLsb' 32 32 ≠ 0#32 ∧ (0x8000000000000000#64).extractLsb' 32 32 ≠ 0#32)
      ∧ fresh.params.sysclkEntry 4#8 = none
      ∧ (2 ≠ 1 ∧ 2 ≠ 4 ∧ ¬ insideRegion fresh.params 0x02800060 1 ∧ ¬ insideRegion fresh.params 0x028003FF 1
          ∧ insideRegion fresh.params 0x02800002 4 ∧ 0x02800002 % 4 ≠ 0
          ∧ 0x02800060 % 4 = 0 ∧ ¬ insideRegion fresh.params 0x02800060 4) := by
  simp only [insideRegion]
  decide

theorem witness_refusedInputs_turn : ownTurn (requesting (duWord 5#3 0#64)) (requesting (duWord 5#3 0#64))
    ∧ ownTurn (requesting (duWord 4#3 0x100000000#64)) (requesting (duWord 4#3 0x100000000#64)) :=
  ⟨.inl ⟨rfl, rfl⟩, .inl ⟨rfl, rfl⟩⟩

/-- HaltedIsStuck: a halted block with nothing pending; the reset pending, in a halted block, inside the sequence and
inside INSTALL. -/
theorem witness_haltedIsStuck :
    halted.params.ok = true ∧ halted.port.halted = true ∧ (∀ rest, halted.env.sched ≠ .reset :: rest)
      ∧ (∀ s ∈ [halted, atStep .settle, installing (.enWord 0)],
          (withEvents s [.reset]).params.ok = true ∧ (withEvents s [.reset]).env.sched = [.reset]) :=
  ⟨by decide, by decide, fun _ h => by simp [halted, fresh, State.reset, State.powerUp, State.fatal] at h, by decide⟩

/-- ResetState: operands of each accepted command. -/
theorem witness_resetState :
    (1#32 : Word) ≠ 0#32 ∧ (3#32).extractLsb' 8 24 = 0#24
      ∧ (Params.default.sysclkEntry ((3#32).extractLsb' 0 8)).isSome = true ∧ State.reset = .powerUp .default ⟨[], [], 0, 0⟩ :=
  ⟨by decide, by decide, by decide, rfl⟩

/-- TickAndRaise: the counter about to wrap; the first and the last slot. -/
theorem witness_tickAndRaise :
    (let s := withEvents (requesting 0#67 (cyc := 0xFFFFFFFFFFFFFFFF#64)) [.tick]
     s.params.ok = true ∧ s.port.halted = false ∧ Memory.wf s.mem = true ∧ s.env.sched = [.tick])
      ∧ (0 < fresh.params.nslot ∧ 95 < fresh.params.nslot
          ∧ (withEvents armed [.raise 95]).env.sched = [.raise 95] ∧ Memory.wf armed.mem = true) := by decide

/-- InjectedTrap: before INSTALL; inside a handler; in IDLE with an interrupt cause. -/
theorem witness_injectedTrap :
    (let s := withEvents fresh [.trap 2#32]
     s.params.ok = true ∧ s.port.halted = false ∧ s.quiet = true ∧ (2#32).getLsbD 31 = false
       ∧ s.itd.dispState = .uninstalled)
      ∧ (let s := withEvents (inPhase .inHandler) [.trap 2#32]
         s.quiet = true ∧ s.itd.dispState ≠ .uninstalled ∧ s.itd.trapPhase ≠ .idle)
      ∧ (let s := withEvents (inPhase .idle) [.trap 0x80000036#32]
         s.quiet = true ∧ s.itd.globalIe = true ∧ s.itd.dispState ≠ .uninstalled ∧ s.itd.trapPhase = .idle) := by decide

/-- InterruptDelivery: one candidate and nothing pending from outside; the host with a command ready. -/
theorem witness_interruptDelivery :
    armed.params.ok = true ∧ armed.du.req = none ∧ armed.seq.pc = .idle ∧ armed.deliverable = true
      ∧ (withEvents armed [.cmd 0#40]).hostReady = false := by decide

theorem witness_interruptDelivery_turn : ownTurn armed armed
    ∧ ownTurn (withEvents armed [.cmd 0#40]) (withEvents armed [.cmd 0#40]) :=
  ⟨.inl ⟨rfl, rfl⟩, .inr (.inr (.inl ⟨_, [], rfl, by decide, rfl⟩))⟩

/-- DecodeCauseFlagFirst, IdentityBijection: admissible parameters, a cause of each case, a byte that is no IRQ number. -/
theorem witness_causes :
    Params.default.ok = true ∧ (0x7FFFFFFF#32).getLsbD 31 = false
      ∧ ((0x80000036#32).getLsbD 31 = true ∧ ((0x80000036#32).extractLsb' 0 8).toNat = irqOf .default .wdt)
      ∧ ((0x80000037#32).getLsbD 31 = true
          ∧ ∀ id ∈ [IrqId.gpio, .tch0, .tch1, .wdt], ((0x80000037#32).extractLsb' 0 8).toNat ≠ irqOf .default id)
      ∧ ((inPhase .idle).port.halted = false ∧ (inPhase .idle).itd.trapPhase ≠ .trapped
          ∧ (inPhase .idle).itd.dispState ≠ .uninstalled) := by decide

/-- EncodeDecode, ContextCheck: words that decode; a block outside INSTALL in each phase. -/
theorem witness_words :
    decode (.command 0x1422000100#40) = .ok (.dispatch 0x22000100#32) ∧ decode (.delay 0#67) = .ok .now
      ∧ ((inPhase .trapped).port.halted = false ∧ (inPhase .trapped).itd.install = none
          ∧ (inPhase .trapped).itd.trapPhase = .trapped)
      ∧ (inPhase .inHandler).itd.trapPhase = .inHandler ∧ (inPhase .idle).itd.trapPhase = .idle := by decide

/-- MemoryReadsBack: the first and the last slot, the first and the last word, of the two regions. -/
theorem witness_memoryReadsBack :
    armed.params.ok = true ∧ Memory.wf armed.mem = true
      ∧ isSlot armed.params 0x02800400 = true ∧ isSlot armed.params 0x0280045F = true
      ∧ isSlotWord armed.params 0x02800000 = true ∧ isSlotWord armed.params 0x0280005C = true
      ∧ isSlotWord armed.params 0x0280045C = true := by decide

theorem witness_memoryCanonical : MemoryCanonical armed ∧ ∃ t, step armed = .next t :=
  ⟨⟨by decide, by decide⟩, (exists_of_after (p := fun t => t.itd.trapPhase == .trapped) (by decide)).imp fun _ h => h.1⟩

/-- A block at S_DIVCALC on the RC path. -/
def dividing : State :=
  { atStep .divcalc (tgtHz := 32000000#32) with
    seq := { (atStep .divcalc (tgtHz := 32000000#32)).seq with state := .safeDefault, coreFreq := 32000000#32 }
    trace := { fresh.trace with clk := [.w .rootSel 0] } }

theorem witness_sequenceOk : SequenceOk dividing ∧ ∃ t, step dividing = .next t := by
  refine ⟨fun _ => ⟨by decide, by decide, by decide, ?_, ?_, ?_, ?_, [], rfl⟩,
    (exists_of_after (p := fun t => t.seq.pc == .uartdiv) (by decide)).imp fun _ h => h.1⟩
  · rfl
  · exact ⟨rfl, rfl, rfl⟩
  · refine ⟨fun _ => ⟨⟨0#8, 32000000#32, .rc⟩, by decide, rfl, fun h => absurd h (by decide), fun _ => rfl⟩, fun h => absurd h (by decide),
      fun h => absurd h (by decide), fun h => absurd h (by decide), fun h => absurd h (by decide), fun h => absurd h (by decide), fun _ => ⟨rfl, rfl⟩,
      fun h => absurd h (by decide), fun h => ?_, fun h => absurd h (by decide)⟩
    rcases h with h | h <;> cases h
  · intro h; cases h

/-- FrozenImmutable, DescriptorTrueKept: the state after P2. -/
theorem witness_frozen : SequenceOk frozen ∧ DescriptorTrue frozen ∧ frozen.clocks.valid = true
    ∧ (∀ rest, frozen.env.sched ≠ .reset :: rest) ∧ ∃ t, step frozen = .next t := by
  refine ⟨fun _ => ⟨by decide, by decide, by decide, .inr (.inl rfl), ⟨rfl, rfl, rfl⟩, ?_, trivial, [], rfl⟩,
    fun _ => ⟨rfl, by decide, by decide, rfl⟩, rfl, fun _ h => (by simp [frozen, fresh, State.reset, State.powerUp] at h),
    (exists_of_after (r := step frozen) (p := fun t => t.clocks.valid) (by decide)).imp fun _ h => h.1⟩
  refine ⟨fun h => absurd h (by decide), fun h => absurd h (by decide), fun _ h => absurd h (by decide), fun h => absurd h (by decide), fun h => absurd h (by decide),
    fun h => absurd h (by decide), fun h => ?_, fun h => absurd h (by decide), fun h => ?_, fun h => absurd h (by decide)⟩
  · rcases h with h | h <;> cases h
  · rcases h with h | h <;> cases h

/-- RegisterInvariantsKept, EnableBitsOkKept: a handler running; the watchdog enabled; a builder with one target. -/
theorem witness_registerInvariants :
    DispatcherOk (inPhase .inHandler) ∧ DispatcherOk armed ∧ EnableBitsOk armed
      ∧ BuilderOk { fresh with cfg := builder 0#8 1#32 0#32 0#32 } ∧ ∃ t, step (inPhase .inHandler) = .next t := by
  refine ⟨⟨fun _ => ⟨.wdt, by decide⟩, ?_, ?_, ?_, ?_, ?_⟩, ⟨?_, ?_, ?_, ?_, ?_, ?_⟩, ?_, ⟨?_, ?_, ?_, ?_, ?_, ?_⟩,
    (exists_of_after (p := fun t => t.itd.trapPhase == .inHandler) (by decide)).imp fun _ h => h.1⟩
  iterate 5 decide
  · intro h; exact absurd h (by decide)
  iterate 5 decide
  · show armed.itd.dispState ≠ .uninstalled → ∀ n, n < armed.params.nslot → armed.en n = true → n ∈ armed.params.irqNumbers
    decide
  iterate 6 decide

/-- HalvesIsolated, SoleWriters: an instruction of each agent that answers a next state, under admissible parameters and
with canonical memory. -/
theorem witness_agents :
    (∃ t, exec (.cfgXtal 1#32) fresh = .next t) ∧ (∃ t, exec (.install 1#32) fresh = .next t)
      ∧ (∃ t, exec .now fresh = .next t) ∧ (∃ t, exec .sSafe fresh = .next t)
      ∧ fresh.params.ok = true ∧ Memory.wf fresh.mem = true := by
  have h : ∀ {r : Result}, after r (fun _ => true) = true → ∃ t, r = .next t :=
    fun h => (exists_of_after h).imp fun _ h => h.1
  exact ⟨h (by decide), h (by decide), h (by decide), h (by decide), by decide, by decide⟩

/-- TrapEntryOnlyWhen: a delivery, and an injected trap; each changes a register. -/
theorem witness_trapEntry :
    armed.itd.trapPhase ≠ .trapped ∧ (∃ t, step armed = .next t ∧ t.itd.trapPhase = .trapped)
      ∧ (∃ t, step (withEvents (inPhase .idle) [.trap 2#32]) = .next t ∧ t.itd.trapPhase = .trapped)
      ∧ (∀ rest, armed.env.sched ≠ .reset :: rest)
      ∧ after (step armed) (fun t => t.itd.trapPc != armed.itd.trapPc) = true
      ∧ after (step (withEvents (inPhase .idle) [.trap 2#32])) (fun t => t.itd.cause != (inPhase .idle).itd.cause) = true := by
  have h : ∀ {r : Result}, after r (fun t => t.itd.trapPhase == .trapped) = true →
      ∃ t, r = .next t ∧ t.itd.trapPhase = .trapped :=
    fun h => (exists_of_after h).imp fun _ h => ⟨h.1, by simpa using h.2⟩
  exact ⟨by decide, h (by decide), h (by decide), fun _ h => (List.cons_ne_nil _ _ h.symm), by decide, by decide⟩

/-- ParametersFixed: a step under admissible parameters; a set with no key of the pending region apart (rule R7 (a)). -/
theorem witness_parametersFixed :
    after (step fresh) (fun _ => true) = true ∧ ({ Params.default with pendOff := 0x400#32 } : Params).ok = false := by
  decide

/-- WaitEndsOnCount: `k` equal to the count, one below it, and across the counter's wrap. -/
theorem witness_waitEndsOnCount :
    let s := requesting (duWord 2#3 3#64) (cyc := 0xFFFFFFFFFFFFFFFE#64)
    s.params.ok = true ∧ s.port.halted = false ∧ (3#64 : Cycles) ≠ 0#64 ∧ s.du.req = some (duWord 2#3 3#64)
      ∧ s.du.waiting = false ∧ s.du.done = false ∧ (3#64).toNat ≤ 3 ∧ 2 < (3#64).toNat ∧ 3 < 2 ^ 64
      ∧ (withEvents s (.own :: (List.replicate 3 .tick ++ [.own]))).env.sched
          = .own :: (List.replicate 3 .tick ++ [.own]) := by decide

/-- InstallRuns, RcPathRuns: right after reset, with the command on the port. -/
theorem witness_runs :
    (let s := withCommand fresh (0x10#8 ++ 0x22000100#32)
     s.params.ok = true ∧ Memory.wf s.mem = true ∧ s.port.halted = false ∧ s.env.sched = [] ∧ s.du.req = none
       ∧ s.seq.pc = .idle ∧ s.port.cmd = some (0x10#8 ++ 0x22000100#32) ∧ s.itd.install = none
       ∧ s.itd.dispState = .uninstalled ∧ s.itd.trapPhase ≠ .trapped)
      ∧ (let s := withCommand { fresh with cfg := builder 0#8 8000000#32 0#32 0#32 } 0x0500000000#40
         s.port.cmd = some 0x0500000000#40 ∧ s.seq.state = .unconfigured ∧ s.cfg.xtal = ⟨false, 0#32⟩
           ∧ s.params.sysclkEntry s.cfg.tgtSysclk = some ⟨0#8, 32000000#32, .rc⟩
           ∧ divcheck 32000000#32 s.cfg.tgtUart s.params.uartDivMax = some (4, 8000000#32)
           ∧ divcheck 32000000#32 s.cfg.tgtSpi s.params.spiDivMax = some (1, 32000000#32)) := by decide

/-- A block at S_SPIDIV on the PLL path of P2, its trace the one the rules give. -/
def spidivPll : State :=
  let hz : Hz := 40000000#32
  let s : State :=
    { atStep .spidiv (count := 3#8) with
      cfg := builder 3#8 hz hz hz
      ct := { fresh.ct with rootSel := 1#1, uartDiv := 4#8 }
      seq := { (atStep .spidiv (count := 3#8)).seq with
        state := .rootClockSwitched, coreFreq := 160000000#32
        pllLatch := ⟨Config.pllFb hz, Config.pllCp hz, Config.pllPd hz⟩
        uartDivC := 4#8, spiDivC := 4#8, uartHzC := hz, spiHzC := hz } }
  { s with trace := { s.trace with clk := s.sequenceTrace } }

theorem witness_pllPathTrace : SequenceOk spidivPll ∧ spidivPll.params.ok = true
    ∧ ∃ t, Host.Core.run Sys2Proof.core 1 spidivPll = .next t ∧ t.port.halted = false ∧ t.seq.pc = .done
      ∧ t.cfg.xtal.valid = true := by
  refine ⟨fun _ => ⟨by decide, by decide, by decide, rfl, ⟨rfl, rfl, rfl⟩, ?_, ?_, [], rfl⟩, by decide, ?_⟩
  · refine ⟨fun _ => ⟨⟨3#8, 160000000#32, .tap 2#3⟩, by decide, rfl, fun _ => rfl, fun h => absurd h (by decide)⟩,
      fun _ => rfl, fun _ _ => ⟨⟨40000000#32, _⟩, rfl, rfl⟩, fun h => absurd h (by decide), fun h => absurd h (by decide),
      fun h => absurd h (by decide), fun _ => ⟨rfl, rfl⟩, fun _ => ⟨by decide, by decide⟩, fun _ => rfl, fun h => absurd h (by decide)⟩
  · intro _; decide
  · obtain ⟨t, ht, h⟩ := exists_of_after (r := step spidivPll)
      (p := fun t => !t.port.halted && t.seq.pc == .done && t.cfg.xtal.valid) (by decide)
    simp only [Bool.and_eq_true, Bool.not_eq_true', beq_iff_eq] at h
    exact ⟨t, run_succ ht 0, h.1.1, h.1.2, h.2⟩

end Sys2Proof.Tests
end

section
/-! SUPPORT. The parameters of 00_scope.md rule R6 are fixed: no instruction, event or delivery writes them, and a set that
breaks a constraint of rule R7 has no step. -/

namespace Sys2Proof.Machine

/-- A fetched word changes no parameter, be it an instruction's or a reserved opcode's. -/
theorem runWord_params {w : FetchWord} {s t : State} (h : runWord w s = .next t) : t.params = s.params := by
  rcases runWord_next h with ⟨i, -, hx⟩ | ⟨op, -, rfl⟩
  · exact exec_params hx
  · exact State.fatal_params s _

/-- Whatever a step did in a block that has not halted, the parameters stay; the state an instruction starts in differs
from `s` in the schedule and the port only. -/
theorem Did.params_eq {s t : State} {es : List Event} (h : Did s es t) : t.params = s.params := by
  cases h with
  | tick => exact State.tick_params _
  | env e => rfl
  | raise n hn => exact State.setLatch_params _ _ _
  | trapFatal c hq => exact State.fatal_params _ _
  | trap v hs hq hv hd hp => exact State.enterTrap_params _ _
  | delay w i _ hr hd hx => exact (exec_params hx).trans rfl
  | micro i _ hr hp hd hx => exact (exec_params hx).trans rfl
  | cmd w _ hr hp hc hx => exact (runWord_params hx).trans rfl
  | deliver hr hp hc hd => exact deliver_params _

/-- No step changes the parameters, the full hardware reset included. -/
theorem step_params {s t : State} (h : step s = .next t) : t.params = s.params := by
  obtain ⟨-, es, ⟨-, rfl⟩ | ⟨-, hd⟩⟩ := step_did h
  · exact State.hardReset_params _
  · exact hd.params_eq

/-- Rule R7: a parameter set that breaks a constraint is "refused by the model, not run". -/
theorem step_badParameters {s : State} (h : s.params.ok = false) : step s = .refused .badParameters := by
  simp [step, h]

/-- Settles O56, by the list of everything a step can have done. -/
theorem parametersFixed : Obligations.ParametersFixed :=
  fun _ => ⟨fun _ h => ⟨(step_next h).1, step_params h⟩, step_badParameters⟩

end Sys2Proof.Machine
end

section
/-! SUPPORT. What an instruction can leave in the configuration registers, the sequencer, the clock tree, the
dispatcher's registers, the port and the traces, said once for every instruction: who writes what, and what the
invariants of the registers need. -/

namespace Sys2Proof.Machine

/-! ### What running an instruction can leave in the configuration registers, the dispatcher and the port -/

/-- Everything running `i` can leave in the configuration registers: a CFG command's register, the fresh builder of the
two ends of a sequence (41_clock_config.md rule R151 to rule R154, 42_clock_sequencer.md rule R204, rule R205). -/
inductive CfgStep (i : Instr) (s : State) : Builder → Prop
  | kept : CfgStep i s s.cfg
  | sysclk (arg : Word) (hi : i = .cfgSysclk arg) : CfgStep i s { s.cfg with tgtSysclk := selOf arg }
  | uart (hz : Word) (hi : i = .cfgUart hz) (h0 : hz ≠ 0#32) : CfgStep i s { s.cfg with tgtUart := .some hz }
  | spi (hz : Word) (hi : i = .cfgSpi hz) (h0 : hz ≠ 0#32) : CfgStep i s { s.cfg with tgtSpi := .some hz }
  | xtal (hz : Word) (hi : i = .cfgXtal hz) (h0 : hz ≠ 0#32) : CfgStep i s { s.cfg with xtal := .some hz }
  | consumed (hi : i ∈ [.sDone, .sTimeout]) : CfgStep i s (.fresh s.params)

/-- Everything running `i` can leave in the dispatcher's registers, with the condition it ran under (43_interrupt_ops.md
rule R224, rule R225, rule R229, rule R231). -/
inductive ItdStep (i : Instr) (s : State) : Dispatcher → Prop
  | kept : ItdStep i s s.itd
  | installBegins (stub : Word) (hi : i = .install stub) (hd : s.itd.dispState = .uninstalled) :
      ItdStep i s { s.itd with globalIe := false, install := some .vector }
  | installGoesOn (stub : Word) (tvec : Addr) (nx : InstallStep) (hi : i = .install stub)
      (hs : s.itd.install.isSome = true) : ItdStep i s { s.itd with tvec := tvec, install := some nx }
  | installEnds (stub : Word) (hi : i = .install stub) (hs : s.itd.install.isSome = true) :
      ItdStep i s { s.itd with globalIe := true, dispState := .vectorInstalled, install := none }
  | activated (id : Word) (hi : i = .enable id) (hd : s.itd.dispState = .vectorInstalled) :
      ItdStep i s { s.itd with dispState := .active }
  | dispatched (frame : Word) (h : Handler) (hi : i = .dispatch frame) (hp : s.itd.trapPhase = .trapped) :
      ItdStep i s { s.itd with handlerSel := h.oneHot, handlerFrame := frame, trapPhase := .inHandler }
  | returned (a : Word) (hi : i = .tret a) (hp : s.itd.trapPhase = .inHandler) : ItdStep i s s.leaveTrap.itd

/-- Everything running `i` can leave on the port: a fatal, or the response of a command or of the end of a sequence
(30_encoding.md rule R104, 60_exceptions.md rule R250). -/
inductive PortStep (i : Instr) (s : State) : Port → Prop
  | kept : PortStep i s s.port
  | fatal (c : FaultCode) : PortStep i s (fatalState s c).port
  | responded (st : RspStatus) (d : Word)
      (hi : agentOf i ∈ [.clockCommand, .dispatcherCommand] ∨ i ∈ [.sDone, .sTimeout]) :
      PortStep i s { s.port with rspStatus := st, rspData := d, cmd := none }

/-- What running `i` has written in the clock half, on the port and in the wait's registers. -/
structure ClockWrote (i : Instr) (s t : State) : Prop where
  cfg : CfgStep i s t.cfg
  seq : SequencerWriters i s t
  clockTree : ClockTreeWriters i s t
  port : PortStep i s t.port
  waits : t.du.waitStart ≠ s.du.waitStart ∨ t.du.waitN ≠ s.du.waitN →
    (∃ n, i = .waitCycles n) ∨ (∃ us, i = .waitMicros us) ∨ ∃ ms, i = .waitMillis ms

/-! ### The clock half: micro-steps, clock commands, delay-unit requests -/

theorem SequencerWriters.of_seq_eq {i : Instr} {s t : State} (h : t.seq = s.seq) : SequencerWriters i s t := by
  simp [SequencerWriters, h]

theorem ClockTreeWriters.of_ct_eq {i : Instr} {s t : State} (hct : t.ct = s.ct) (hcl : t.clocks = s.clocks) :
    ClockTreeWriters i s t := by
  simp [ClockTreeWriters, hct, hcl]

/-- A micro-step with a wait writes what its first part writes, and moves `seq_pc` at its end (rule R171). -/
theorem heldFor_clockWrote {i : Instr} (s : State) (us : BitVec 32) (succ : SeqPc) {before : State → State}
    (hi : agentOf i = .sequencer) (hb : ClockWrote i s (before s)) : ClockWrote i s (s.heldFor us succ before) := by
  rcases heldFor_cases s us succ before with ⟨-, h⟩ | ⟨-, -, h⟩ | ⟨-, -, h⟩ <;> rw [h]
  · exact ⟨.kept, by simp [SequencerWriters, hi], .of_ct_eq rfl rfl, .kept, by simp⟩
  · exact ⟨.kept, .of_seq_eq rfl, .of_ct_eq rfl rfl, .kept, by simp⟩
  · exact { hb with }

/-- A write that leaves the port and the delay unit alone. -/
theorem ClockWrote.of_writes {i : Instr} {s t : State} (hc : CfgStep i s t.cfg) (hs : SequencerWriters i s t)
    (ht : ClockTreeWriters i s t) (hp : t.port = s.port := by rfl) (hd : t.du = s.du := by rfl) :
    ClockWrote i s t :=
  ⟨hc, hs, ht, hp ▸ .kept, by simp [hd]⟩

/-- A fatal writes the port only (60_exceptions.md rule R250). -/
theorem fatal_clockWrote (i : Instr) (s : State) (c : FaultCode) : ClockWrote i s (s.fatal c) :=
  ⟨.kept, .of_seq_eq rfl, .of_ct_eq rfl rfl, .fatal c, by simp⟩

/-- Each micro-step writes only what its rule names (42_clock_sequencer.md rule R173 to rule R205). -/
theorem sequencer_clockWrote {i : Instr} {s t : State} (hi : agentOf i = .sequencer) (h : exec i s = .next t) :
    ClockWrote i s t := by
  have hid : ClockWrote i s (id s) := .of_writes .kept (.of_seq_eq rfl) (.of_ct_eq rfl rfl)
  cases i <;> simp only [agentOf, reduceCtorEq] at hi <;> simp only [exec] at h <;>
    obtain ⟨-, h⟩ := unlessHalted_next h
  case sPollWait => cases h; exact heldFor_clockWrote s _ _ rfl hid
  case sSettle => cases h; exact heldFor_clockWrote s _ _ rfl hid
  case sPollRead =>
    obtain ⟨e, he, -⟩ := ctReadXtalReady_cases s
    cases h
    rw [he]
    exact .of_writes .kept (by simp [SequencerWriters, agentOf]) (.of_ct_eq rfl rfl)
  case sReach =>
    split at h
    · cases h
    · split at h <;> cases h
      · exact .of_writes .kept (by simp [SequencerWriters, agentOf]) (.of_ct_eq rfl rfl)
      · exact .of_writes .kept (by simp [SequencerWriters, agentOf]) (.of_ct_eq rfl rfl)
      · exact fatal_clockWrote _ _ _
  case sPllLookup =>
    dsimp only at h
    split at h <;> cases h
    · exact ⟨.kept, by simp [SequencerWriters], .of_ct_eq rfl rfl, .fatal _, by simp⟩
    · exact .of_writes .kept (by simp [SequencerWriters, agentOf]) (.of_ct_eq rfl rfl)
  case sBusdiv =>
    dsimp only at h
    split at h <;> cases h
    · exact ⟨.kept, .of_seq_eq rfl, by simp [ClockTreeWriters, ClockTree.set], .fatal _, by simp⟩
    · exact .of_writes .kept (by simp [SequencerWriters, agentOf]) (by simp [ClockTreeWriters, ClockTree.set])
  case sIcache =>
    dsimp only at h
    split at h <;> cases h
    · exact .of_writes .kept (by simp [SequencerWriters, agentOf]) (by simp [ClockTreeWriters, ClockTree.set])
    · exact .of_writes .kept (by simp [SequencerWriters, agentOf]) (.of_ct_eq rfl rfl)
  case sDivcalc =>
    split at h
    · cases h; exact fatal_clockWrote _ _ _
    · split at h <;> cases h
      · exact fatal_clockWrote _ _ _
      · exact .of_writes .kept (by simp [SequencerWriters, agentOf]) (.of_ct_eq rfl rfl)
  case sDone =>
    cases h
    exact ⟨.consumed (by simp), by simp [SequencerWriters, agentOf], by simp [ClockTreeWriters],
      .responded _ _ (.inr (by simp)), by simp⟩
  case sTimeout =>
    cases h
    exact ⟨.consumed (by simp), by simp [SequencerWriters, agentOf], .of_ct_eq rfl rfl,
      .responded _ _ (.inr (by simp)), by simp⟩
  case sPuBias | sPuCore | sPuCpdiv | sSdmSet | sSdmClr | sFbdvSet | sFbdvClr =>
    cases h
    exact heldFor_clockWrote s _ _ rfl
      (.of_writes .kept (by simp [SequencerWriters]) (by simp [ClockTreeWriters, ClockTree.set]))
  all_goals
    cases h
    exact .of_writes .kept (by simp [SequencerWriters, agentOf]) (by simp [ClockTreeWriters, ClockTree.set])

/-- Each clock command writes only its own register; FREEZE starts the sequencer (41_clock_config.md rule R150 to rule
R160, 42_clock_sequencer.md rule R170). -/
theorem clockCommand_clockWrote {i : Instr} {s t : State} (hi : agentOf i = .clockCommand)
    (h : exec i s = .next t) : ClockWrote i s t := by
  have hport : ∀ st d, PortStep i s { s.port with rspStatus := st, rspData := d, cmd := none } :=
    fun st d => .responded st d (.inl (by simp [hi]))
  cases i <;> simp only [agentOf, reduceCtorEq] at hi <;>
    simp only [exec, execCfgSysclk, execCfgUart, execCfgSpi, execCfgXtal, configure, execFreeze, execRdSysclk,
      execRdUart, execRdSpi, execRdPllen, execRdXtal, readClocks] at h
  all_goals
    obtain ⟨-, ⟨c, -, rfl⟩ | ⟨-, hf, -, h⟩⟩ := command_next h
    · exact fatal_clockWrote _ _ _
    cases h
  case cfgSysclk => exact ⟨.sysclk _ rfl, .of_seq_eq rfl, .of_ct_eq rfl rfl, hport _ _, by simp⟩
  case cfgUart =>
    exact ⟨.uart _ rfl (by simpa [formatH] using hf), .of_seq_eq rfl, .of_ct_eq rfl rfl, hport _ _, by simp⟩
  case cfgSpi =>
    exact ⟨.spi _ rfl (by simpa [formatH] using hf), .of_seq_eq rfl, .of_ct_eq rfl rfl, hport _ _, by simp⟩
  case cfgXtal =>
    exact ⟨.xtal _ rfl (by simpa [formatH] using hf), .of_seq_eq rfl, .of_ct_eq rfl rfl, hport _ _, by simp⟩
  case freeze => exact .of_writes .kept (by simp [SequencerWriters]) (.of_ct_eq rfl rfl)
  all_goals exact ⟨.kept, .of_seq_eq rfl, .of_ct_eq rfl rfl, hport _ _, by simp⟩

/-- Of the delay unit's requests only the waits write `wait_start` and `wait_n` (10_state.md rule R45). -/
theorem delayUnit_clockWrote {i : Instr} {s t : State} (hi : agentOf i = .delayUnit) (h : exec i s = .next t) :
    ClockWrote i s t := by
  obtain ⟨-, hcfg, hseq, hct, hcl, -, -, hport, -⟩ := delayUnit_frame hi h
  refine ⟨hcfg ▸ .kept, .of_seq_eq hseq, .of_ct_eq hct hcl, hport ▸ .kept, ?_⟩
  cases i <;> simp only [agentOf, reduceCtorEq] at hi <;> simp only [exec] at h
  case now | elapsed => obtain ⟨-, h⟩ := unlessHalted_next h; cases h; simp
  all_goals simp

/-! ### The dispatcher's commands -/

/-- What running `i` has written in the interrupt half, the latch bits apart, and on the port. -/
structure DispatcherWrote (i : Instr) (s t : State) : Prop where
  itd : ItdStep i s t.itd
  mem : t.trace.mem ≠ s.trace.mem →
    (∃ stub, i = .install stub) ∨ (∃ id, i = .enable id) ∨ (∃ id, i = .disable id) ∨ ∃ id, i = .clear id
  call : t.trace.call ≠ s.trace.call → ∃ frame, i = .dispatch frame
  port : PortStep i s t.port

theorem fatal_dispatcherWrote (i : Instr) (s : State) (c : FaultCode) : DispatcherWrote i s (s.fatal c) :=
  ⟨.kept, by simp, by simp, .fatal c⟩

/-- The first ENABLE makes the dispatcher ACTIVE; a later one changes nothing (43_interrupt_ops.md rule R225). -/
theorem activate_cases (s : State) :
    activate s = s ∨ (s.itd.dispState = .vectorInstalled
      ∧ activate s = { s with itd := { s.itd with dispState := .active } }) := by
  unfold activate
  split
  · exact .inr ⟨‹_›, rfl⟩
  · exact .inl rfl

/-- A slot write traces in `mem_trace` and responds; what it does to the dispatcher's registers is `after`'s. -/
theorem writeSlot_dispatcherWrote {i : Instr} {s t : State} {arg : Word} {addr : Params → Nat → Addr} {v : Word}
    {after : State → State} (hi : i = .enable arg ∨ i = .disable arg ∨ i = .clear arg)
    (ha : ∀ u : State, u.itd = s.itd →
      ItdStep i s (after u).itd ∧ (after u).port = u.port ∧ (after u).trace = u.trace)
    (h : writeSlot s arg addr v after = .next t) : DispatcherWrote i s t := by
  rcases writeSlot_next h with rfl | ⟨id, u, -, hu, rfl⟩
  · exact fatal_dispatcherWrote _ _ _
  · obtain ⟨-, -, -, -, -, -, hitd, hport, -, -, hcall, -⟩ := memWrite_frame hu
    obtain ⟨haitd, haport, hatrace⟩ := ha u hitd
    refine ⟨haitd, fun _ => ?_, fun hc => absurd ?_ hc, ?_⟩
    · rcases hi with rfl | rfl | rfl <;> simp
    · simp [hatrace, hcall]
    · simp only [State.respond_port, haport, hport]
      exact .responded _ _ (.inl (by rcases hi with rfl | rfl | rfl <;> simp [agentOf]))

/-- Each turn of INSTALL (43_interrupt_ops.md rule R224). -/
theorem install_dispatcherWrote {stub : Word} {s t : State} (h : execInstall stub s = .next t) :
    DispatcherWrote (.install stub) s t := by
  obtain ⟨-, h⟩ := execInstall_next h
  rcases h with ⟨-, c, rfl⟩ | ⟨hn, hd, -, rfl⟩ | ⟨hn, rfl⟩ | ⟨w, u, hn, hu, rfl⟩ | ⟨w, u, hn, hu, rfl⟩ | ⟨hn, rfl⟩
  · exact fatal_dispatcherWrote _ _ _
  · exact ⟨.installBegins stub rfl hd, by simp, by simp, .kept⟩
  · exact ⟨.installGoesOn stub _ _ rfl (by simp [hn]), by simp, by simp, .kept⟩
  · obtain ⟨-, -, -, -, -, -, hitd, hport, -, -, hcall, -⟩ := memWrite_frame hu
    exact ⟨hitd ▸ .installGoesOn stub _ _ rfl (by simp [hn]), by simp, by simp [hcall], hport ▸ .kept⟩
  · obtain ⟨-, -, -, -, -, -, hitd, hport, -, -, hcall, -⟩ := memWrite_frame hu
    exact ⟨hitd ▸ .installGoesOn stub _ _ rfl (by simp [hn]), by simp, by simp [hcall], hport ▸ .kept⟩
  · exact ⟨.installEnds stub rfl (by simp [hn]), by simp, by simp, .responded _ _ (.inl (by simp [agentOf]))⟩

theorem dispatcherCommand_dispatcherWrote {i : Instr} {s t : State} (hi : agentOf i = .dispatcherCommand)
    (h : exec i s = .next t) : DispatcherWrote i s t := by
  cases i <;> simp only [agentOf, reduceCtorEq] at hi <;>
    simp only [exec, execEnable, execDisable, execClear, execDispatch, execTret] at h
  case install => exact install_dispatcherWrote h
  all_goals
    obtain ⟨-, ⟨c, -, rfl⟩ | ⟨hc, -, -, h⟩⟩ := command_next h
    · exact fatal_dispatcherWrote _ _ _
  case enable =>
    refine writeSlot_dispatcherWrote (.inl rfl) (fun u hu => ?_) h
    rcases activate_cases u with ha | ⟨hd, ha⟩ <;> rw [ha]
    · exact ⟨hu ▸ .kept, rfl, rfl⟩
    · exact ⟨hu ▸ .activated _ rfl (hu ▸ hd), rfl, rfl⟩
  case disable => exact writeSlot_dispatcherWrote (.inr (.inl rfl)) (fun u hu => ⟨hu ▸ .kept, rfl, rfl⟩) h
  case clear => exact writeSlot_dispatcherWrote (.inr (.inr rfl)) (fun u hu => ⟨hu ▸ .kept, rfl, rfl⟩) h
  case dispatch =>
    cases h
    exact ⟨.dispatched _ _ rfl (by simpa [contextDispatch] using hc), by simp, by simp,
      .responded _ _ (.inl (by simp [agentOf]))⟩
  case tret =>
    cases h
    exact ⟨.returned _ rfl (by simpa [contextTret] using hc), by simp, by simp,
      .responded _ _ (.inl (by simp [agentOf]))⟩

/-! ### Every instruction -/

theorem exec_clockWrote {i : Instr} {s t : State} (h : exec i s = .next t) : ClockWrote i s t := by
  cases hi : agentOf i
  · exact clockCommand_clockWrote hi h
  · obtain ⟨-, hcfg, hseq, hct, hcl, hdu, -⟩ := dispatcherCommand_frame hi h
    exact ⟨hcfg ▸ .kept, .of_seq_eq hseq, .of_ct_eq hct hcl, (dispatcherCommand_dispatcherWrote hi h).port,
      by simp [hdu]⟩
  · exact delayUnit_clockWrote hi h
  · exact sequencer_clockWrote hi h

theorem exec_dispatcherWrote {i : Instr} {s t : State} (h : exec i s = .next t) : DispatcherWrote i s t := by
  have hport := (exec_clockWrote h).port
  cases hi : agentOf i
  · obtain ⟨-, -, -, hitd, -, -, htr, -⟩ := clockCommand_frame hi h
    exact ⟨hitd ▸ .kept, by simp [htr], by simp [htr], hport⟩
  · exact dispatcherCommand_dispatcherWrote hi h
  · obtain ⟨-, -, -, -, -, hitd, -, -, hm, hc, -⟩ := delayUnit_frame hi h
    exact ⟨hitd ▸ .kept, by simp [hm], by simp [hc], hport⟩
  · obtain ⟨-, hitd, -, hm, hc, -⟩ := sequencer_frame hi h
    exact ⟨hitd ▸ .kept, by simp [hm], by simp [hc], hport⟩

/-- Only micro-steps and delay-unit requests trace in `clk_trace` (10_state.md rule R53). -/
theorem exec_clk {i : Instr} {s t : State} (h : exec i s = .next t) (hc : t.trace.clk ≠ s.trace.clk) :
    agentOf i ∈ [.sequencer, .delayUnit] := by
  cases hi : agentOf i
  · obtain ⟨-, -, -, -, -, -, htr, -⟩ := clockCommand_frame hi h
    exact absurd (congrArg Trace.clk htr) hc
  · obtain ⟨-, -, -, -, -, -, hclk, -⟩ := dispatcherCommand_frame hi h
    exact absurd hclk hc
  · simp
  · simp

/-- No instruction writes the counter (10_state.md rule R44). -/
theorem exec_cyc {i : Instr} {s t : State} (h : exec i s = .next t) : t.du.cyc = s.du.cyc := by
  cases hi : agentOf i
  · obtain ⟨-, -, -, -, -, hdu, -⟩ := clockCommand_frame hi h
    rw [hdu]
  · obtain ⟨-, -, -, -, -, hdu, -⟩ := dispatcherCommand_frame hi h
    rw [hdu]
  · obtain ⟨-, -, -, -, -, -, -, -, -, -, -, hcyc⟩ := delayUnit_frame hi h
    exact hcyc
  · obtain ⟨-, -, -, -, -, -, hcyc⟩ := sequencer_frame hi h
    exact hcyc

end Sys2Proof.Machine
end

section
/-! SUPPORT. What the dispatcher's commands do to the latch bits of 10_state.md rule R50: a word of an INSTALL sweep sets
none, a slot write touches one slot of one region. -/

namespace Sys2Proof.Machine

/-! ### One access -/

theorem latchAt_of_mem_eq {s t : State} (h : t.mem = s.mem) (x : Nat) : t.latchAt x = s.latchAt x := by
  simp [State.latchAt, h]

/-- A latch after a byte `MemWrite`: `v[0]` at the slot written, unchanged at any other (20_memory.md rule R76). -/
theorem memWrite_byte_latchAt {s t : State} {addr : Addr} {v : Word} (hwf : Memory.wf s.mem = true)
    (h : s.memWrite addr 1 v = some t) (x : Nat) :
    t.latchAt x = if x = addr.toNat then v.getLsbD 0 else s.latchAt x := by
  rcases memWrite_cases h with ⟨-, -, rfl⟩ | ⟨h4, -⟩
  · simp only [State.latchAt, State.memEvent_mem, State.setLatch_mem]
    split
    · next hx => rw [hx, Memory.read_write_same _ _ _ hwf, slotByte_bit]
    · next hx => rw [Memory.read_write_other _ _ _ _ hx]
  · exact absurd h4 (by decide)

/-- A word `MemWrite` of 0 sets no latch (rule R77). -/
theorem memWrite_zero_latchAt {s t : State} {addr : Addr} (hwf : Memory.wf s.mem = true)
    (h : s.memWrite addr 4 0#32 = some t) {x : Nat} (hx : s.latchAt x = false) : t.latchAt x = false := by
  rcases memWrite_cases h with ⟨h1, -⟩ | ⟨-, -, rfl⟩
  · exact absurd h1 (by decide)
  · simp only [State.latchAt, State.memEvent_mem] at hx ⊢
    by_cases ho : x < addr.toNat ∨ addr.toNat + 4 ≤ x
    · rwa [writeWordCells_read_other _ _ _ _ ho]
    · obtain ⟨k, rfl⟩ : ∃ k, x = addr.toNat + k := ⟨x - addr.toNat, by omega⟩
      rw [writeWordCells_read_same _ _ _ hwf (by omega), slotByte_bit]
      simp

/-! ### The dispatcher's commands -/

/-- No turn of INSTALL sets a latch (43_interrupt_ops.md rule R224). -/
theorem execInstall_latchAt {stub : Word} {s t : State} (hwf : Memory.wf s.mem = true)
    (h : execInstall stub s = .next t) {x : Nat} (hx : s.latchAt x = false) : t.latchAt x = false := by
  obtain ⟨-, h⟩ := execInstall_next h
  rcases h with ⟨-, c, rfl⟩ | ⟨-, -, -, rfl⟩ | ⟨-, rfl⟩ | ⟨w, u, -, hu, rfl⟩ | ⟨w, u, -, hu, rfl⟩ | ⟨-, rfl⟩
  · exact hx
  · exact hx
  · exact hx
  · exact memWrite_zero_latchAt hwf hu hx
  · exact memWrite_zero_latchAt hwf hu hx
  · exact hx

/-- A slot write is rejected with no latch changed, or gives `v[0]` to the slot of one of the four sources and changes
no other latch (rule R225 to rule R227). -/
theorem writeSlot_latchAt {s t : State} {arg : Word} {addr : Params → Nat → Addr} {v : Word} {after : State → State}
    (hwf : Memory.wf s.mem = true) (ha : ∀ u, (after u).mem = u.mem) (h : writeSlot s arg addr v after = .next t) :
    (∀ x, t.latchAt x = s.latchAt x) ∨ ∃ id, ∀ x, t.latchAt x
      = if x = (addr s.params (irqOf s.params id)).toNat then v.getLsbD 0 else s.latchAt x := by
  rcases writeSlot_next h with rfl | ⟨id, u, -, hu, rfl⟩
  · exact .inl fun x => rfl
  · refine .inr ⟨id, fun x => ?_⟩
    rw [← memWrite_byte_latchAt hwf hu x]
    exact latchAt_of_mem_eq (ha u) x

theorem activate_mem (s : State) : (activate s).mem = s.mem := by
  rcases activate_cases s with h | ⟨-, h⟩ <;> rw [h]

/-- The two regions have no address in common (20_memory.md rule R74, 00_scope.md rule R7 (a)). -/
theorem enAddr_ne_pendAddr {p : Params} (h : p.spaceOk = true) {n m : Nat} (hn : n < p.nslot) (hm : m < p.nslot) :
    (enAddr p n).toNat ≠ (pendAddr p m).toNat := by
  rw [enAddr_toNat h hn, pendAddr_toNat h hm]
  obtain ⟨-, -, -, -, -, -, -, hdisj⟩ := Params.spaceOk_cases h
  omega

/-- A slot write in the enable region: every pending bit stays, an enable bit stays or takes `v[0]`. -/
theorem writeSlot_enAddr {s t : State} {arg : Word} {v : Word} {after : State → State} (hok : s.params.ok = true)
    (hwf : Memory.wf s.mem = true) (ha : ∀ u, (after u).mem = u.mem) (hp : t.params = s.params)
    (h : writeSlot s arg enAddr v after = .next t) {n : Nat} (hn : n < s.params.nslot) :
    t.pend n = s.pend n ∧ (t.en n = s.en n ∨ t.en n = v.getLsbD 0) := by
  obtain ⟨-, -, hspace, hirq⟩ := Params.ok_cases hok
  simp only [State.en, State.pend, hp]
  rcases writeSlot_latchAt hwf ha h with heq | ⟨id, hw⟩
  · exact ⟨heq _, .inl (heq _)⟩
  · refine ⟨?_, ?_⟩
    · rw [hw, if_neg (enAddr_ne_pendAddr hspace (irqOf_lt hirq id) hn).symm]
    · rw [hw]
      split <;> simp

/-- A slot write in the pending region: every enable bit stays, a pending bit stays or takes `v[0]`. -/
theorem writeSlot_pendAddr {s t : State} {arg : Word} {v : Word} {after : State → State} (hok : s.params.ok = true)
    (hwf : Memory.wf s.mem = true) (ha : ∀ u, (after u).mem = u.mem) (hp : t.params = s.params)
    (h : writeSlot s arg pendAddr v after = .next t) {n : Nat} (hn : n < s.params.nslot) :
    t.en n = s.en n ∧ (t.pend n = s.pend n ∨ t.pend n = v.getLsbD 0) := by
  obtain ⟨-, -, hspace, hirq⟩ := Params.ok_cases hok
  simp only [State.en, State.pend, hp]
  rcases writeSlot_latchAt hwf ha h with heq | ⟨id, hw⟩
  · exact ⟨heq _, .inl (heq _)⟩
  · refine ⟨?_, ?_⟩
    · rw [hw, if_neg (enAddr_ne_pendAddr hspace hn (irqOf_lt hirq id))]
    · rw [hw]
      split <;> simp

/-- An instruction that changes no latch. -/
theorem LatchWriters.of_latchAt_eq {i : Instr} {s t : State} (hp : t.params = s.params)
    (h : ∀ x, t.latchAt x = s.latchAt x) : LatchWriters i s t := by
  intro n _
  have hen : t.en n = s.en n := by simp [State.en, hp, h]
  have hpend : t.pend n = s.pend n := by simp [State.pend, hp, h]
  simp_all

/-! ### Every instruction -/

/-- The dispatcher's commands set an enable bit by ENABLE only and no pending bit (43_interrupt_ops.md rule R224 to rule
R227). -/
theorem dispatcherCommand_latchWriters {i : Instr} {s t : State} (hi : agentOf i = .dispatcherCommand)
    (hok : s.params.ok = true) (hwf : Memory.wf s.mem = true) (h : exec i s = .next t) : LatchWriters i s t := by
  have hp := exec_params h
  cases i <;> simp only [agentOf, reduceCtorEq] at hi <;>
    simp only [exec, execEnable, execDisable, execClear, execDispatch, execTret] at h
  case install =>
    intro n _
    have hen : s.en n = false → t.en n = false := by
      simp only [State.en, hp]
      exact execInstall_latchAt hwf h
    have hpend : s.pend n = false → t.pend n = false := by
      simp only [State.pend, hp]
      exact execInstall_latchAt hwf h
    exact ⟨fun h0 h1 => by simp [hen h0] at h1, fun _ _ => .inr ⟨_, rfl⟩, hpend, fun _ _ => .inr ⟨_, rfl⟩⟩
  all_goals
    obtain ⟨-, ⟨c, -, rfl⟩ | ⟨-, -, -, h⟩⟩ := command_next h
    · exact .of_latchAt_eq rfl fun x => rfl
  case enable =>
    intro n hn
    obtain ⟨hpend, hen | hen⟩ := writeSlot_enAddr hok hwf activate_mem hp h hn <;> simp_all
  case disable =>
    intro n hn
    obtain ⟨hpend, hen | hen⟩ := writeSlot_enAddr hok hwf (fun _ => rfl) hp h hn <;> simp_all
  case clear =>
    intro n hn
    obtain ⟨hen, hpend | hpend⟩ := writeSlot_pendAddr hok hwf (fun _ => rfl) hp h hn <;> simp_all
  all_goals cases h; exact .of_latchAt_eq rfl fun x => rfl

/-- No instruction of another agent writes the interrupt-controller space. -/
theorem exec_latchWriters {i : Instr} {s t : State} (hok : s.params.ok = true) (hwf : Memory.wf s.mem = true)
    (h : exec i s = .next t) : LatchWriters i s t := by
  have kept : t.mem = s.mem → LatchWriters i s t :=
    fun hm => .of_latchAt_eq (exec_params h) (latchAt_of_mem_eq hm)
  cases hi : agentOf i
  · obtain ⟨-, -, -, -, hm, -⟩ := clockCommand_frame hi h
    exact kept hm
  · exact dispatcherCommand_latchWriters hi hok hwf h
  · obtain ⟨-, -, -, -, -, -, hm, -⟩ := delayUnit_frame hi h
    exact kept hm
  · obtain ⟨-, -, hm, -⟩ := sequencer_frame hi h
    exact kept hm

end Sys2Proof.Machine
end

section
/-! The writers of every register, latch bit and trace: what `CfgStep`, `ItdStep` and `PortStep` list, read as who may
change a register. -/

namespace Sys2Proof.Machine

theorem CfgStep.builderWriters {i : Instr} {s t : State} (h : CfgStep i s t.cfg) : BuilderWriters i s t := by
  unfold BuilderWriters
  generalize t.cfg = c at h ⊢
  cases h with
  | kept => simp
  | sysclk arg hi => simp [hi]
  | uart hz hi => simp [hi]
  | spi hz hi => simp [hi]
  | xtal hz hi => simp [hi]
  | consumed hi => exact ⟨fun _ => .inr hi, fun _ => .inr hi, fun _ => .inr hi, fun _ => .inr hi⟩

theorem ItdStep.dispatcherWriters {i : Instr} {s t : State} (h : ItdStep i s t.itd) : DispatcherWriters i s t := by
  unfold DispatcherWriters
  generalize t.itd = d at h ⊢
  cases h with
  | kept => simp
  | installBegins stub hi => simp [hi]
  | installGoesOn stub tvec nx hi => simp [hi]
  | installEnds stub hi => simp [hi]
  | activated id hi => simp [hi]
  | dispatched frame h hi => simp [hi]
  | returned a hi => simp [hi]

/-- A response is a command's, the end of a sequence's or a fatal's (30_encoding.md rule R104). -/
theorem PortStep.response {i : Instr} {s : State} {p : Port} (h : PortStep i s p)
    (hr : p.rspStatus ≠ s.port.rspStatus ∨ p.rspData ≠ s.port.rspData) :
    agentOf i ∈ [.clockCommand, .dispatcherCommand] ∨ i ∈ [.sDone, .sTimeout] ∨ p.halted = true := by
  cases h with
  | kept => simp at hr
  | fatal c => exact .inr (.inr rfl)
  | responded st d hi => exact hi.imp_right .inl

/-- Only a fatal halts (60_exceptions.md rule R250). -/
theorem PortStep.halt {i : Instr} {s : State} {p : Port} (h : PortStep i s p)
    (hh : p.halted ≠ s.port.halted ∨ p.faultCode ≠ s.port.faultCode) : ∃ c, p = (fatalState s c).port := by
  cases h with
  | kept => simp at hh
  | fatal c => exact ⟨c, rfl⟩
  | responded st d hi => simp at hh

theorem exec_outputWriters {i : Instr} {s t : State} (h : exec i s = .next t) : OutputWriters i s t := by
  have hc := exec_clockWrote h
  have hd := exec_dispatcherWrote h
  exact ⟨hc.port.response, hc.port.halt, hc.waits, exec_cyc h, exec_clk h, hd.mem, hd.call⟩

/-- Settles O54: each group of registers by what an instruction can leave in it. -/
theorem soleWriters : Obligations.SoleWriters := by
  intro i s t h
  have hc := exec_clockWrote h
  exact ⟨hc.cfg.builderWriters, hc.seq, hc.clockTree, (exec_dispatcherWrote h).itd.dispatcherWriters,
    exec_outputWriters h, fun hok hwf => exec_latchWriters hok hwf h⟩

end Sys2Proof.Machine
end

section
/-! The invariants of the configuration registers and of the dispatcher's registers: kept by every instruction and by
taking a trap, and true at reset; hence kept by every step. At reset the other invariants hold too. -/

namespace Sys2Proof.Machine

/-! ### What every step keeps -/

/-- A property of the configuration registers and the dispatcher's registers alone that every instruction keeps, that
taking a trap keeps where a trap may be taken (60_exceptions.md rule R263, rule R264), and that reset establishes. -/
structure RegisterInvariant (P : State → Prop) : Prop where
  congr : ∀ {s t : State}, P s → t.cfg = s.cfg → t.itd = s.itd → P t
  exec : ∀ {i : Instr} {s t : State}, exec i s = .next t → P s → P t
  trap : ∀ {s : State} (c : Word), s.itd.trapPhase = .idle → s.itd.dispState ≠ .uninstalled → P s → P (s.enterTrap c)
  reset : ∀ (p : Params) (e : Env), P (.powerUp p e)

theorem RegisterInvariant.deliver {P : State → Prop} (hP : RegisterInvariant P) {s : State}
    (hd : s.deliverable = true) (h : P s) : P s.deliver := by
  obtain ⟨-, hu, -, -, hp, -⟩ := deliverable_iff.1 hd
  rcases deliver_cases s with he | ⟨n, -, he⟩ <;> rw [he]
  · exact h
  · exact hP.trap _ hp hu (hP.congr h rfl rfl)

theorem RegisterInvariant.runWord {P : State → Prop} (hP : RegisterInvariant P) {w : FetchWord} {s t : State}
    (hx : runWord w s = .next t) (h : P s) : P t := by
  rcases runWord_next hx with ⟨i, -, hi⟩ | ⟨op, -, rfl⟩
  · exact hP.exec hi h
  · exact hP.congr h rfl rfl

theorem RegisterInvariant.did {P : State → Prop} (hP : RegisterInvariant P) {s t : State} {es : List Event}
    (hd : Did s es t) (h : P s) : P t := by
  have hs : P (s.withSched es) := hP.congr h rfl rfl
  cases hd with
  | tick => exact hP.congr h rfl rfl
  | env e => exact hP.congr h rfl rfl
  | raise n hn => exact hP.congr h rfl rfl
  | trapFatal c hq => exact hP.congr h rfl rfl
  | trap v hsched hq hv hu hp => exact hP.trap v hp hu hs
  | delay w i _ hr hdec hx => exact hP.exec hx hs
  | micro i _ hr hp hdec hx => exact hP.exec hx hs
  | cmd w _ hr hp hc hx => exact hP.runWord hx (hP.congr h rfl rfl)
  | deliver hr hp hc hdel => exact hP.deliver hdel hs

/-- Every step keeps it, the hardware reset included. -/
theorem RegisterInvariant.step {P : State → Prop} (hP : RegisterInvariant P) {s t : State} (hs : step s = .next t)
    (h : P s) : P t := by
  obtain ⟨-, es, ⟨-, rfl⟩ | ⟨-, hd⟩⟩ := step_did hs
  · exact hP.reset _ _
  · exact hP.did hd h

/-! ### The configuration registers -/

/-- CFG_UART, CFG_SPI and CFG_XTAL accept no frequency 0 (30_encoding.md rule R103, rule R108). -/
theorem CfgStep.builderOk {i : Instr} {s t : State} (h : CfgStep i s t.cfg) (hb : BuilderOk s) : BuilderOk t := by
  unfold BuilderOk at hb ⊢
  generalize t.cfg = c at h ⊢
  cases h with
  | kept => exact hb
  | sysclk arg => exact hb
  | uart hz hi h0 => simp_all [OptFreq.some]
  | spi hz hi h0 => simp_all [OptFreq.some]
  | xtal hz hi h0 => simp_all [OptFreq.some]
  | consumed hi => simp [Builder.fresh, OptFreq.absent]

theorem builderOk_powerUp (p : Params) (e : Env) : BuilderOk (.powerUp p e) := by
  simp [BuilderOk, State.powerUp, Builder.fresh, OptFreq.absent]

theorem registerInvariant_builderOk : RegisterInvariant BuilderOk where
  congr h hc _ := by
    unfold BuilderOk
    rw [hc]
    exact h
  exec hx h := (exec_clockWrote hx).cfg.builderOk h
  trap _ _ _ h := h
  reset := builderOk_powerUp

/-! ### The dispatcher's registers -/

/-- INSTALL runs only before the dispatcher is installed, hence with no trap in progress; DISPATCH selects one handler;
TRET clears the selection. -/
theorem ItdStep.dispatcherOk {i : Instr} {s t : State} (h : ItdStep i s t.itd) (hd : DispatcherOk s) :
    DispatcherOk t := by
  unfold DispatcherOk at hd ⊢
  generalize t.itd = d at h ⊢
  obtain ⟨hin, hout, htrap, hoff, hon, hinst⟩ := hd
  cases h with
  | kept => exact ⟨hin, hout, htrap, hoff, hon, hinst⟩
  | installBegins stub hi hu => exact ⟨hin, hout, htrap, fun _ => rfl, fun h => absurd hu h, fun _ => hu⟩
  | installGoesOn stub tvec nx hi hs => exact ⟨hin, hout, htrap, hoff, hon, fun _ => hinst hs⟩
  | installEnds stub hi hs => exact ⟨hin, hout, by simp, by simp, by simp, by simp⟩
  | activated id hi hv =>
    have hu : s.itd.dispState ≠ .uninstalled := by simp [hv]
    exact ⟨hin, hout, by simp, by simp, fun _ => hon hu, fun h => absurd (hinst h) hu⟩
  | dispatched frame h hi hp =>
    exact ⟨fun _ => ⟨h, rfl⟩, by simp, fun _ => htrap (by simp [hp]), hoff, hon, hinst⟩
  | returned a hi hp => exact ⟨by simp, fun _ => ⟨rfl, rfl⟩, by simp, hoff, hon, hinst⟩

/-- A trap is taken in IDLE, after INSTALL, and leaves the handler outputs at 0 (60_exceptions.md rule R265). -/
theorem DispatcherOk.enterTrap {s : State} (h : DispatcherOk s) (hp : s.itd.trapPhase = .idle)
    (hu : s.itd.dispState ≠ .uninstalled) (c : Word) : DispatcherOk (s.enterTrap c) := by
  obtain ⟨-, hout, -, hoff, hon, hinst⟩ := h
  exact ⟨by simp, fun _ => hout (by simp [hp]), fun _ => hu, hoff, hon, hinst⟩

theorem dispatcherOk_powerUp (p : Params) (e : Env) : DispatcherOk (.powerUp p e) := by
  simp [DispatcherOk, State.powerUp]

theorem registerInvariant_dispatcherOk : RegisterInvariant DispatcherOk where
  congr h _ hi := by
    unfold DispatcherOk
    rw [hi]
    exact h
  exec hx h := (exec_dispatcherWrote hx).itd.dispatcherOk h
  trap c hp hu h := h.enterTrap hp hu c
  reset := dispatcherOk_powerUp

/-- Settles O50: both are invariants of the registers alone, kept by whatever a step can have done. -/
theorem registerInvariantsKept : Obligations.RegisterInvariantsKept :=
  ⟨fun _ _ hd h => registerInvariant_dispatcherOk.step h hd, fun _ _ hb h => registerInvariant_builderOk.step h hb⟩

/-! ### At reset -/

theorem memoryCanonical_powerUp (p : Params) (e : Env) : MemoryCanonical (.powerUp p e) := by
  simp [MemoryCanonical, Memory.wf]

/-- Before INSTALL nothing is said of the enable bits. -/
theorem enableBitsOk_powerUp (p : Params) (e : Env) : EnableBitsOk (.powerUp p e) :=
  fun h => absurd rfl h

theorem descriptorTrue_powerUp (p : Params) (e : Env) : DescriptorTrue (.powerUp p e) :=
  fun h => by simp [State.powerUp] at h

/-- No sequence is in progress, so no value of one is constrained. -/
theorem valuesOk_powerUp (p : Params) (e : Env) : ValuesOk (.powerUp p e) := by
  simp [ValuesOk, State.powerUp, SeqPc.targetKnown, SeqPc.pllOnly, SeqPc.lookedUp, SeqPc.beforeSwitch,
    SeqPc.divided]

/-- The fresh builder selects `SYSCLK_RESET_SEL`, which is to be a key of the table (00_scope.md rule R7 (d)). -/
theorem sequenceOk_powerUp {p : Params} (h : (p.sysclkEntry p.sysclkResetSel).isSome = true) (e : Env) :
    SequenceOk (.powerUp p e) :=
  fun _ => ⟨by simp [State.powerUp], by simp [State.powerUp], h, .inl rfl, ⟨rfl, rfl, rfl⟩,
    valuesOk_powerUp p e, trivial, [], rfl⟩

/-- Settles O52: the reset state under any parameters, then the default ones of 00_scope.md rule R6 evaluated. -/
theorem invariantsAtReset : Obligations.InvariantsAtReset :=
  ⟨memoryCanonical_powerUp _ _, dispatcherOk_powerUp _ _, enableBitsOk_powerUp _ _, builderOk_powerUp _ _,
    sequenceOk_powerUp (by decide) _, descriptorTrue_powerUp _ _, by decide⟩

end Sys2Proof.Machine
end

section
/-! The interrupt-controller space of 20_memory.md: what an access reads back and leaves alone, and the canonical form
of the cell list, kept by every access, hence by every instruction and every step. -/

namespace Sys2Proof.Machine

/-! ### One access -/

/-- A byte access to a slot is admitted (rule R76). -/
theorem exists_memWrite_byte {s : State} {addr : Addr} (v : Word) (h : isSlot s.params addr.toNat = true) :
    ∃ t, s.memWrite addr 1 v = some t := by
  simp [State.memWrite, h]

/-- An aligned word access in one region is admitted (rule R77). -/
theorem exists_memWrite_word {s : State} {addr : Addr} (v : Word) (h : isSlotWord s.params addr.toNat = true) :
    ∃ t, s.memWrite addr 4 v = some t := by
  simp [State.memWrite, h]

/-- A byte read of a slot (rule R75, rule R79). -/
theorem memRead_byte {s : State} {addr : Addr} (h : isSlot s.params addr.toNat = true) :
    s.memRead addr 1 = some ((slotByte (s.latchAt addr.toNat)).setWidth 32) := by
  simp [State.memRead, h]

/-- A word read: four slots, little-endian (rule R75). -/
theorem memRead_word {s : State} {addr : Addr} (h : isSlotWord s.params addr.toNat = true) :
    s.memRead addr 4 = some (slotByte (s.latchAt (addr.toNat + 3)) ++ slotByte (s.latchAt (addr.toNat + 2))
      ++ slotByte (s.latchAt (addr.toNat + 1)) ++ slotByte (s.latchAt addr.toNat)) := by
  simp [State.memRead, h]

/-- The latches of the four slots after a word `MemWrite`: `v[0]`, `v[8]`, `v[16]`, `v[24]` (rule R77). -/
theorem memWrite_word_latchAt_same {s t : State} {addr : Addr} {v : Word} (hwf : Memory.wf s.mem = true)
    (h : s.memWrite addr 4 v = some t) {k : Nat} (hk : k < 4) : t.latchAt (addr.toNat + k) = v.getLsbD (8 * k) := by
  rcases memWrite_cases h with ⟨h1, -⟩ | ⟨-, -, rfl⟩
  · exact absurd h1 (by decide)
  · simp only [State.latchAt, State.memEvent_mem]
    rw [writeWordCells_read_same _ _ _ hwf hk, slotByte_bit]

/-- A word `MemWrite` leaves every latch outside its four slots alone. -/
theorem memWrite_word_latchAt_other {s t : State} {addr : Addr} {v : Word} (h : s.memWrite addr 4 v = some t) {x : Nat}
    (hx : x < addr.toNat ∨ addr.toNat + 4 ≤ x) : t.latchAt x = s.latchAt x := by
  rcases memWrite_cases h with ⟨h1, -⟩ | ⟨-, -, rfl⟩
  · exact absurd h1 (by decide)
  · simp only [State.latchAt, State.memEvent_mem]
    rw [writeWordCells_read_other _ _ _ _ hx]

/-- Bits 7 to 1 of a slot hold nothing (rule R74). -/
theorem getLsbD_slotByte (b : Bool) (k : Nat) : (slotByte b).getLsbD k = (decide (k = 0) && b) := by
  cases b <;> simp [slotByte, BitVec.getLsbD_one]

/-- The zero-extended byte read of a latch. -/
theorem setWidth_slotByte (b : Bool) : (slotByte b).setWidth 32 = if b then 1#32 else 0#32 := by
  cases b <;> rfl

/-- The four slots a word write fills, read as a word: bit 0 of each byte of `v`. -/
theorem slotBytes_append_of_word (v : Word) :
    slotByte (v.getLsbD 24) ++ slotByte (v.getLsbD 16) ++ slotByte (v.getLsbD 8) ++ slotByte (v.getLsbD 0)
      = v &&& 0x01010101#32 := by
  refine BitVec.eq_of_getLsbD_eq fun i hi => ?_
  simp only [BitVec.getLsbD_append, getLsbD_slotByte, BitVec.getLsbD_and]
  interval_cases i <;> simp

/-! ### Reading back what was written -/

theorem memWrite_byte_readsBack {s : State} {addr : Addr} (v : Word) (hwf : Memory.wf s.mem = true)
    (h : isSlot s.params addr.toNat = true) :
    ∃ t, s.memWrite addr 1 v = some t ∧ t.memRead addr 1 = some (if v.getLsbD 0 then 1#32 else 0#32)
      ∧ ∀ x, x ≠ addr.toNat → t.latchAt x = s.latchAt x := by
  obtain ⟨t, hw⟩ := exists_memWrite_byte v h
  obtain ⟨hp, -⟩ := memWrite_frame hw
  refine ⟨t, hw, ?_, fun x hx => ?_⟩
  · rw [memRead_byte (hp ▸ h), memWrite_byte_latchAt hwf hw, if_pos rfl, setWidth_slotByte]
  · rw [memWrite_byte_latchAt hwf hw, if_neg hx]

theorem memWrite_word_readsBack {s : State} {addr : Addr} (v : Word) (hwf : Memory.wf s.mem = true)
    (h : isSlotWord s.params addr.toNat = true) :
    ∃ t, s.memWrite addr 4 v = some t ∧ t.memRead addr 4 = some (v &&& 0x01010101#32)
      ∧ ∀ x, x < addr.toNat ∨ addr.toNat + 4 ≤ x → t.latchAt x = s.latchAt x := by
  obtain ⟨t, hw⟩ := exists_memWrite_word v h
  obtain ⟨hp, -⟩ := memWrite_frame hw
  refine ⟨t, hw, ?_, fun x hx => memWrite_word_latchAt_other hw hx⟩
  have bit (k : Nat) (hk : k < 4) : t.latchAt (addr.toNat + k) = v.getLsbD (8 * k) :=
    memWrite_word_latchAt_same hwf hw hk
  have bit0 : t.latchAt addr.toNat = v.getLsbD 0 := bit 0 (by decide)
  rw [memRead_word (hp ▸ h), bit0, bit 1 (by decide), bit 2 (by decide), bit 3 (by decide),
    ← slotBytes_append_of_word]

/-- Settles O45: what a byte access and a word access read back. -/
theorem memoryReadsBack : Obligations.MemoryReadsBack :=
  fun _ _ v _ hwf => ⟨memWrite_byte_readsBack v hwf, memWrite_word_readsBack v hwf⟩

/-! ### The canonical form -/

/-- It speaks of the parameters and the cell list only. -/
theorem MemoryCanonical.congr {s t : State} (h : MemoryCanonical s) (hp : t.params = s.params) (hm : t.mem = s.mem) :
    MemoryCanonical t := by
  unfold MemoryCanonical
  rw [hp, hm]
  exact h

/-- Setting or clearing the latch of a slot that exists lists at most that slot, with its one bit set. -/
theorem MemoryCanonical.setLatch {s : State} (h : MemoryCanonical s) {a : Nat} (ha : isSlot s.params a = true)
    (b : Bool) : MemoryCanonical (s.setLatch a b) := by
  obtain ⟨hwf, hcells⟩ := h
  refine ⟨Memory.wf_write _ _ _ hwf, fun c hc => ?_⟩
  rcases Memory.of_mem_write hc with ⟨rfl, hne⟩ | hold
  · exact ⟨ha, slotByte_ne_zero hne⟩
  · exact hcells c hold

/-- A word access is four slot accesses (20_memory.md rule R77). -/
theorem writeWordCells_eq_setLatch (s : State) (a : Nat) (v : Word) :
    ({ s with mem := writeWordCells s.mem a v } : State) = (((s.setLatch a (v.getLsbD 0)).setLatch (a + 1)
      (v.getLsbD 8)).setLatch (a + 2) (v.getLsbD 16)).setLatch (a + 3) (v.getLsbD 24) := rfl

/-- An access that is admitted is to slots that exist (rule R78). -/
theorem MemoryCanonical.memWrite {s t : State} {addr : Addr} {n : Nat} {v : Word} (h : MemoryCanonical s)
    (hw : s.memWrite addr n v = some t) : MemoryCanonical t := by
  rcases memWrite_cases hw with ⟨-, hslot, rfl⟩ | ⟨-, hword, rfl⟩
  · exact (h.setLatch hslot _).congr rfl rfl
  · have slot {k : Nat} (hk : k ≤ 3) := isSlot_of_word hword hk
    rw [writeWordCells_eq_setLatch]
    exact ((((h.setLatch (slot (k := 0) (by decide)) _).setLatch (slot (k := 1) (by decide)) _).setLatch
      (slot (k := 2) (by decide)) _).setLatch (slot (k := 3) (by decide)) _).congr rfl rfl

/-! ### Every instruction -/

/-- What an instruction can leave in the interrupt-controller space: what was there, or the result of one `MemWrite`. -/
inductive MemStep (s t : State) : Prop
  | kept (hm : t.mem = s.mem)
  | wrote (addr : Addr) (n : Nat) (v : Word) (u : State) (hw : s.memWrite addr n v = some u) (hm : t.mem = u.mem)

theorem execInstall_memStep {stub : Word} {s t : State} (h : execInstall stub s = .next t) : MemStep s t := by
  obtain ⟨-, h⟩ := execInstall_next h
  rcases h with ⟨-, c, rfl⟩ | ⟨-, -, -, rfl⟩ | ⟨-, rfl⟩ | ⟨w, u, -, hu, rfl⟩ | ⟨w, u, -, hu, rfl⟩ | ⟨-, rfl⟩
  · exact .kept rfl
  · exact .kept rfl
  · exact .kept rfl
  · exact .wrote _ _ _ u hu rfl
  · exact .wrote _ _ _ u hu rfl
  · exact .kept rfl

theorem writeSlot_memStep {s t : State} {arg : Word} {addr : Params → Nat → Addr} {v : Word} {after : State → State}
    (ha : ∀ u, (after u).mem = u.mem) (h : writeSlot s arg addr v after = .next t) : MemStep s t := by
  rcases writeSlot_next h with rfl | ⟨id, u, -, hu, rfl⟩
  · exact .kept rfl
  · exact .wrote _ _ _ u hu (ha u)

/-- INSTALL, ENABLE, DISABLE and CLEAR make at most one access a turn, DISPATCH and TRET none. -/
theorem dispatcherCommand_memStep {i : Instr} {s t : State} (hi : agentOf i = .dispatcherCommand)
    (h : exec i s = .next t) : MemStep s t := by
  cases i <;> simp only [agentOf, reduceCtorEq] at hi <;>
    simp only [exec, execEnable, execDisable, execClear, execDispatch, execTret] at h
  case install => exact execInstall_memStep h
  all_goals
    obtain ⟨-, ⟨c, -, rfl⟩ | ⟨-, -, -, h⟩⟩ := command_next h
    · exact .kept rfl
  case enable => exact writeSlot_memStep activate_mem h
  case disable => exact writeSlot_memStep (fun _ => rfl) h
  case clear => exact writeSlot_memStep (fun _ => rfl) h
  all_goals cases h; exact .kept rfl

/-- Only the dispatcher's commands access the space. -/
theorem exec_memStep {i : Instr} {s t : State} (h : exec i s = .next t) : MemStep s t := by
  cases hi : agentOf i
  · obtain ⟨-, -, -, -, hm, -⟩ := clockCommand_frame hi h
    exact .kept hm
  · exact dispatcherCommand_memStep hi h
  · obtain ⟨-, -, -, -, -, -, hm, -⟩ := delayUnit_frame hi h
    exact .kept hm
  · obtain ⟨-, -, hm, -⟩ := sequencer_frame hi h
    exact .kept hm

theorem MemoryCanonical.exec {i : Instr} {s t : State} (h : MemoryCanonical s) (hx : exec i s = .next t) :
    MemoryCanonical t := by
  have hp := exec_params hx
  cases exec_memStep hx with
  | kept hm => exact h.congr hp hm
  | wrote addr n v u hw hm =>
    obtain ⟨hpu, -⟩ := memWrite_frame hw
    exact (h.memWrite hw).congr (hp.trans hpu.symm) hm

theorem MemoryCanonical.runWord {w : FetchWord} {s t : State} (h : MemoryCanonical s) (hx : runWord w s = .next t) :
    MemoryCanonical t := by
  rcases runWord_next hx with ⟨i, -, hi⟩ | ⟨op, -, rfl⟩
  · exact h.exec hi
  · exact h.congr rfl rfl

/-! ### Every step -/

/-- Delivery reads the latches and writes none (60_exceptions.md rule R263, rule R265). -/
theorem deliver_mem (s : State) : s.deliver.mem = s.mem := by
  rcases deliver_cases s with he | ⟨n, -, he⟩ <;> rw [he]
  rfl

/-- IRQ_RAISE sets the pending latch of a slot that exists under admissible parameters; what else writes the space is an
instruction. -/
theorem MemoryCanonical.did {s t : State} {es : List Event} (h : MemoryCanonical s) (hok : s.params.ok = true)
    (hd : Did s es t) : MemoryCanonical t := by
  have hs : MemoryCanonical (s.withSched es) := h.congr rfl rfl
  cases hd with
  | tick => exact h.congr rfl rfl
  | env e => exact h.congr rfl rfl
  | raise n hn =>
    obtain ⟨-, -, hspace, -⟩ := Params.ok_cases hok
    exact hs.setLatch (isSlot_pendAddr hspace hn) true
  | trapFatal c hq => exact h.congr rfl rfl
  | trap v hsched hq hv hu hp => exact h.congr rfl rfl
  | delay w i _ hr hdec hx => exact hs.exec hx
  | micro i _ hr hp hdec hx => exact hs.exec hx
  | cmd w _ hr hp hc hx =>
    have hport : MemoryCanonical { s.withSched es with port := { s.port with cmd := some w } } := h.congr rfl rfl
    exact hport.runWord hx
  | deliver hr hp hc hdel => exact hs.congr (deliver_params _) (deliver_mem _)

/-- Settles O46: the reset empties the list, anything else a step can have done keeps it canonical. -/
theorem memoryCanonicalKept : Obligations.MemoryCanonicalKept := by
  intro s t h hs
  obtain ⟨hok, es, ⟨-, rfl⟩ | ⟨-, hd⟩⟩ := step_did hs
  · exact memoryCanonical_powerUp _ _
  · exact h.did hok hd

end Sys2Proof.Machine
end

section
/-! The encoding (30_encoding.md rule R101, rule R102, rule R111, rule R112): the decoder and the encoder are each
other's inverse on each of the three ports, but for the operand NOW ignores. A word is its operation field and its
operand field, so each direction is a look-up in the tables. -/

namespace Sys2Proof

/-! ### Decoding what was encoded -/

/-- Settles O40: by the port of the instruction, its operation and its operand read back from their fields. -/
theorem decodeEncode : Obligations.DecodeEncode := by
  intro i
  cases i
  case cfgSysclk | cfgUart | cfgSpi | cfgXtal | freeze | rdSysclk | rdUart | rdSpi | rdPllen | rdXtal | install
      | enable | disable | clear | dispatch | tret =>
    simp [encode, commandWord, decode, decodeCommand, opcodeOf_append, argOf_append]
  case now | elapsed | waitCycles | waitMicros | waitMillis =>
    simp [encode, decode, decodeDelay, duOpOf_duWord, duArgOf_duWord, decodeDuration_setWidth]
  all_goals rfl

/-! ### Encoding what was decoded -/

/-- The two fields of a command word are all of it (rule R101). -/
theorem opcodeOf_append_argOf (w : BitVec 40) : opcodeOf w ++ argOf w = w :=
  BitVec.extractLsb'_append_extractLsb' (w := 8)

/-- The two fields of a request are all of it (rule R111). -/
theorem duWord_duOpOf_duArgOf (w : BitVec 67) : duWord (duOpOf w) (duArgOf w) = w :=
  BitVec.extractLsb'_append_extractLsb' (w := 3)

/-- A command word is built from the code a table row names and its operand. -/
theorem commandWord_argOf {w : BitVec 40} {op : BitVec 8} (h : (opcodeOf w).toNat = op.toNat) :
    commandWord op (argOf w) = .command w := by
  rw [commandWord, ← BitVec.eq_of_toNat_eq h, opcodeOf_append_argOf]

theorem duWord_duArgOf {w : BitVec 67} {op : BitVec 3} (h : (duOpOf w).toNat = op.toNat) :
    duWord op (duArgOf w) = w := by
  rw [← BitVec.eq_of_toNat_eq h, duWord_duOpOf_duArgOf]

/-- A duration that is accepted is zero-extended (rule R111). -/
theorem decodeDuration_ok {a : BitVec 64} {make : BitVec 32 → Instr} {i : Instr}
    (h : decodeDuration a make = .ok i) : ∃ d : BitVec 32, d.setWidth 64 = a ∧ i = make d := by
  unfold decodeDuration at h
  split at h
  · rename_i hhigh
    cases h
    refine ⟨_, BitVec.eq_of_toNat_eq ?_, rfl⟩
    have hz := congrArg BitVec.toNat hhigh
    simp only [BitVec.extractLsb'_toNat, BitVec.toNat_ofNat, BitVec.toNat_setWidth] at hz ⊢
    omega
  · cases h

/-- A command word is an instruction's encoding, or its opcode is reserved (rule R102, rule R107). -/
theorem decodeCommand_cases (w : BitVec 40) :
    (∃ i, decodeCommand w = .ok i ∧ encode i = .command w)
      ∨ decodeCommand w = .error (.reservedOpcode (opcodeOf w)) := by
  unfold decodeCommand
  split
  case h_17 => exact .inr rfl
  all_goals exact .inl ⟨_, rfl, commandWord_argOf ‹_›⟩

theorem encode_of_decodeCommand {w : BitVec 40} {i : Instr} (h : decodeCommand w = .ok i) :
    encode i = .command w := by
  obtain ⟨j, hj, henc⟩ | herr := decodeCommand_cases w
  · cases hj.symm.trans h; exact henc
  · cases herr.symm.trans h

/-- A request is an instruction's encoding, or it is NOW with any operand (rule R111). -/
theorem encode_of_decodeDelay {w : BitVec 67} {i : Instr} (h : decodeDelay w = .ok i) :
    (i ≠ .now ∧ encode i = .delay w) ∨ (i = .now ∧ ∃ a, w = duWord 0#3 a) := by
  unfold decodeDelay at h
  split at h
  case h_1 hop => cases h; exact .inr ⟨rfl, duArgOf w, (duWord_duArgOf hop).symm⟩
  case h_2 hop | h_3 hop => cases h; exact .inl ⟨by simp, congrArg _ (duWord_duArgOf hop)⟩
  case h_4 hop | h_5 hop =>
    obtain ⟨d, hd, rfl⟩ := decodeDuration_ok h
    exact .inl ⟨by simp, by rw [encode, hd, duWord_duArgOf hop]⟩
  case h_6 => cases h

/-- A micro-step's code is the one the table gives it (rule R112). -/
theorem encode_of_decodeMicro {pc : BitVec 6} {i : Instr} (h : decodeMicro pc = .ok i) : encode i = .micro pc := by
  unfold decodeMicro at h
  split at h
  case h_30 => cases h
  all_goals
    cases h
    exact congrArg FetchWord.micro (BitVec.eq_of_toNat_eq (Eq.symm ‹_›))

/-- Settles O41: port by port; NOW is encoded for the delay unit's port only. -/
theorem encodeDecode : Obligations.EncodeDecode := by
  intro w i h
  cases w with
  | command w =>
    have henc := encode_of_decodeCommand h
    exact ⟨fun _ => henc, fun hi => by subst hi; cases henc⟩
  | delay w =>
    obtain ⟨hi, henc⟩ | ⟨hi, a, rfl⟩ := encode_of_decodeDelay h
    · exact ⟨fun _ => henc, fun h => absurd h hi⟩
    · exact ⟨fun h => absurd hi h, fun _ => ⟨a, rfl⟩⟩
  | micro pc =>
    have henc := encode_of_decodeMicro h
    exact ⟨fun _ => henc, fun hi => by subst hi; cases henc⟩

/-- Settles O31: thirteen of the words are the encodings of their instructions; the other three are in no row of the
tables. -/
theorem sampleWordsDecode : Obligations.SampleWordsDecode :=
  ⟨decodeEncode (.cfgSysclk 3#32), decodeEncode (.cfgUart 40000000#32), decodeEncode (.freeze 0#32),
    decodeEncode (.rdXtal 0#32), decodeEncode (.install 0x22000100#32), decodeEncode (.enable 3#32),
    decodeEncode (.clear 3#32), decodeEncode (.dispatch 0x4200FF00#32), decodeEncode (.tret 0#32),
    decodeEncode (.elapsed 0xFFFFFFFFFFFFFFFA#64), decodeEncode (.waitMicros 10#32), decodeEncode .sDivcalc,
    decodeEncode .sTimeout, rfl, rfl, rfl⟩

end Sys2Proof
end

section
/-! Checks 2 and 3 of 30_encoding.md rule R110: the reserved opcode (rule R107) and the context (rule R109), by the
opcode of the word. -/

namespace Sys2Proof.Machine

/-! ### The reserved opcode -/

/-- The opcodes of rule R102. -/
def commandOpcodes : List (BitVec 8) :=
  [0x01#8, 0x02#8, 0x03#8, 0x04#8, 0x05#8, 0x08#8, 0x09#8, 0x0A#8, 0x0B#8, 0x0C#8, 0x10#8, 0x11#8, 0x12#8, 0x13#8,
    0x14#8, 0x15#8]

/-- A command has one of the sixteen opcodes. -/
theorem opcodeOf_mem_commandOpcodes {i : Instr} {w : BitVec 40} (h : encode i = .command w) :
    opcodeOf w ∈ commandOpcodes := by
  cases i <;> cases h
  all_goals rw [opcodeOf_append]; decide

theorem decode_reservedOpcode {w : BitVec 40} (h : opcodeOf w ∉ commandOpcodes) :
    decode (.command w) = .error (.reservedOpcode (opcodeOf w)) :=
  (decodeCommand_cases w).resolve_left fun ⟨_, _, henc⟩ => h (opcodeOf_mem_commandOpcodes henc)

/-- A reserved opcode is F_ILLEGAL_CMD whatever the state (rule R107). -/
theorem runWord_reservedOpcode {w : BitVec 40} (s : State) (h : opcodeOf w ∉ commandOpcodes) :
    runWord (.command w) s = .next (s.fatal .illegalCmd) := by
  rw [runWord, decode_reservedOpcode h]

/-- A command the host presents is run in the same step, with its word on the port. -/
theorem step_presentedCommand {s : State} {w : BitVec 40} {rest : List Event} (hok : s.params.ok = true)
    (hh : s.port.halted = false) (hr : s.hostReady = true) (hs : s.env.sched = .cmd w :: rest) :
    step s = runWord (.command w) { s.withSched rest with port := { s.port with cmd := some w } } := by
  have hnext : nextAction s
      = (.run (.command w), { s.withSched rest with port := { s.port with cmd := some w } }) := by
    simp [nextAction, hs, hr]
  rw [step, if_pos hok, hnext]
  exact unlessHalted_of _ _ hh

/-- Settles O32: the fatal writes the whole port, so the presented word leaves no trace there. -/
theorem reservedOpcodeFatal : Obligations.ReservedOpcodeFatal := by
  intro s w rest hok hh hr hs hop
  rw [step_presentedCommand hok hh hr hs, runWord_reservedOpcode _ hop]
  rfl

/-! ### The context -/

/-- The context check of the command with opcode `op` in phase `ph` (rule R109). -/
def contextAt (op : BitVec 8) (ph : TrapPhase) : Bool :=
  if op = 0x14#8 then contextDispatch ph else if op = 0x15#8 then contextTret ph else contextPlain ph

theorem contextAt_eq_false {op : BitVec 8} {ph : TrapPhase} :
    contextAt op ph = false ↔ (op ≠ 0x14#8 ∧ ph = .trapped) ∨ (op = 0x14#8 ∧ ph ≠ .trapped)
      ∨ (op = 0x15#8 ∧ ph ≠ .inHandler) := by
  unfold contextAt
  split
  · simp [contextDispatch, *]
  · split
    · cases ph <;> simp [contextTret, *]
    · simp [contextPlain, *]

theorem fatal_inj {s : State} {c d : FaultCode} (h : s.fatal c = s.fatal d) : c = d :=
  congrArg (·.port.faultCode) h

/-- The context check comes first, and no other check of rule R110 raises its code. -/
theorem firstFailure_badContext {context form : Bool} {pre : Option FaultCode} (hp : pre ≠ some .badContext) :
    firstFailure context form pre = some .badContext ↔ context = false := by
  cases context <;> cases form <;> simp [firstFailure, hp]

/-- A command raises F_BAD_CONTEXT exactly when its context check fails, its own rule and its precondition raising
something else if anything. -/
theorem command_badContext {s : State} {context form : Bool} {pre : Option FaultCode} {body : State → Result}
    (hh : s.port.halted = false) (hp : pre ≠ some .badContext) (hb : body s ≠ .next (s.fatal .badContext)) :
    command s context form pre body = .next (s.fatal .badContext) ↔ context = false := by
  constructor
  · intro h
    obtain ⟨-, ⟨code, hf, hcode⟩ | ⟨-, -, -, hbody⟩⟩ := command_next h
    · rw [← fatal_inj hcode] at hf
      exact (firstFailure_badContext hp).1 hf
    · exact absurd hbody hb
  · exact fun hc => command_rejected _ _ _ _ _ _ hh ((firstFailure_badContext hp).2 hc)

theorem needToken_ne_badContext (s : State) : needToken s ≠ some .badContext := by
  unfold needToken; split <;> simp

theorem needClocks_ne_badContext (s : State) : needClocks s ≠ some .badContext := by
  unfold needClocks; split <;> simp

theorem needUninstalled_ne_badContext (s : State) : needUninstalled s ≠ some .badContext := by
  unfold needUninstalled; split <;> simp

theorem needInstalledIrq_ne_badContext (s : State) (arg : Word) : needInstalledIrq s arg ≠ some .badContext := by
  unfold needInstalledIrq
  split
  · simp
  · split <;> simp

/-- A state that has not halted is not what a fatal leaves (60_exceptions.md rule R250). -/
theorem next_ne_fatal {s t : State} {c : FaultCode} (h : t.port.halted = false) :
    (.next t : Result) ≠ .next (s.fatal c) := by
  intro he
  cases he
  simp at h

theorem activate_port (s : State) : (activate s).port = s.port := by
  rcases activate_cases s with h | ⟨-, h⟩ <;> rw [h]

/-- A slot write raises F_UNKNOWN_IRQ if anything (43_interrupt_ops.md rule R225 to rule R227). -/
theorem writeSlot_ne_badContext {s : State} {arg : Word} {addr : Params → Nat → Addr} {v : Word}
    {after : State → State} (ha : ∀ u, (after u).port = u.port) (hh : s.port.halted = false) :
    writeSlot s arg addr v after ≠ .next (s.fatal .badContext) := by
  intro h
  rcases writeSlot_next h with hf | ⟨id, u, -, hu, ht⟩
  · cases fatal_inj hf
  · obtain ⟨-, -, -, -, -, -, -, hport, -⟩ := memWrite_frame hu
    refine next_ne_fatal ?_ (congrArg Host.Outcome.next ht.symm)
    rw [State.respond_port, ha, hport]
    exact hh

/-- INSTALL outside its later turns is checked as any command is (43_interrupt_ops.md rule R223). -/
theorem execInstall_of_none {s : State} (stub : Word) (h : s.itd.install = none) :
    execInstall stub s = command s (contextPlain s.itd.trapPhase) true (needUninstalled s) fun s =>
      .next { s with itd := { s.itd with globalIe := false, install := some .vector } } := by
  simp [execInstall, h]

/-- Every command is checked as rule R110 says, the context by its opcode. -/
theorem exec_command_badContext {i : Instr} {s : State} {w : BitVec 40} (henc : encode i = .command w)
    (hh : s.port.halted = false) (hi : s.itd.install = none) :
    exec i s = .next (s.fatal .badContext) ↔ contextAt (opcodeOf w) s.itd.trapPhase = false := by
  cases i <;> cases henc <;> rw [opcodeOf_append] <;>
    simp only [exec, execCfgSysclk, execCfgUart, execCfgSpi, execCfgXtal, configure, execFreeze, execRdSysclk,
      execRdUart, execRdSpi, execRdPllen, execRdXtal, readClocks, execInstall_of_none _ hi, execEnable, execDisable,
      execClear, execDispatch, execTret]
  case cfgSysclk | cfgUart | cfgSpi | cfgXtal | freeze =>
    refine command_badContext hh (needToken_ne_badContext s) ?_
    exact next_ne_fatal hh
  case rdSysclk | rdUart | rdSpi | rdPllen | rdXtal =>
    refine command_badContext hh (needClocks_ne_badContext s) ?_
    exact next_ne_fatal hh
  case install =>
    refine command_badContext hh (needUninstalled_ne_badContext s) ?_
    exact next_ne_fatal hh
  case enable arg =>
    refine command_badContext hh (needInstalledIrq_ne_badContext s arg) ?_
    exact writeSlot_ne_badContext activate_port hh
  case disable arg | clear arg =>
    refine command_badContext hh (needInstalledIrq_ne_badContext s arg) ?_
    exact writeSlot_ne_badContext (fun _ => rfl) hh
  case dispatch | tret =>
    refine command_badContext (pre := none) hh (by simp) ?_
    exact next_ne_fatal hh

/-- Settles O42: the context check by opcode, read as rule R109 words it. -/
theorem contextCheck : Obligations.ContextCheck :=
  fun _ _ _ hh hi hdec =>
    contextAt_eq_false.symm.trans (exec_command_badContext (encode_of_decodeCommand hdec) hh hi).symm

end Sys2Proof.Machine
end

section
/-! The delay unit (40_delay_unit.md): the answers of NOW and ELAPSED, the wait at one turn of the unit and over a run
of ticks, and the two events that act whatever the block is doing, TICK and IRQ_RAISE (60_exceptions.md rule R260). -/

namespace Sys2Proof.Machine

/-! ### The unit's operations past the guard -/

theorem exec_now (s : State) : exec .now s = unlessHalted s fun s => .next (s.replyWith s.du.cyc) := rfl

theorem exec_elapsed (since : Cycles) (s : State) :
    exec (.elapsed since) s = unlessHalted s fun s => .next (s.replyWith (s.du.elapsed since)) := rfl

theorem exec_waitCycles (n : Cycles) (s : State) :
    exec (.waitCycles n) s = unlessHalted s fun s => .next (s.waitCycles n) := rfl

/-! ### Reading the counter -/

/-- The elapsed count wraps: a start above the counter counts from before the wrap (rule R132). -/
theorem elapsed_eq_ofNat (d : DelayUnit) (since : Cycles) :
    d.elapsed since = BitVec.ofNat 64 ((d.cyc.toNat + (2 ^ 64 - since.toNat)) % 2 ^ 64) := by
  apply BitVec.eq_of_toNat_eq
  rw [DelayUnit.elapsed, BitVec.toNat_sub, BitVec.toNat_ofNat, Nat.mod_mod, Nat.add_comm]

/-- Settles O10, the two meanings past the guard of rule R250. -/
theorem nowAndElapsed : Obligations.NowAndElapsed := by
  intro s since hh
  rw [exec_now, exec_elapsed, unlessHalted_of s _ hh, unlessHalted_of s _ hh, ← elapsed_eq_ofNat]
  exact ⟨rfl, rfl⟩

/-! ### The wait at one turn of the unit -/

theorem testWait_of_reached {s : State} (h : s.du.waitN.toNat ≤ (s.du.elapsed s.du.waitStart).toNat) :
    s.testWait = s.endWait := if_pos h

theorem testWait_of_short {s : State} (h : (s.du.elapsed s.du.waitStart).toNat < s.du.waitN.toNat) :
    s.testWait = s := if_neg (Nat.not_le.2 h)

/-- Nothing has elapsed when the test is first made. -/
theorem beginWait_elapsed (s : State) (n : Cycles) :
    (s.beginWait n).du.elapsed (s.beginWait n).du.waitStart = 0#64 := BitVec.sub_self _

theorem waitCycles_begins {s : State} {n : Cycles} (hw : s.du.waiting = false) (hn : n ≠ 0#64) :
    s.waitCycles n = s.beginWait n := by
  have hpos : 0 < n.toNat := Nat.pos_of_ne_zero fun h => hn (BitVec.eq_of_toNat_eq h)
  rw [State.waitCycles, if_neg (by simp [hw])]
  apply testWait_of_short
  rwa [beginWait_elapsed]

theorem waitCycles_zero {s : State} (hw : s.du.waiting = false) :
    s.waitCycles 0#64 = (s.beginWait 0#64).endWait := by
  rw [State.waitCycles, if_neg (by simp [hw])]
  exact testWait_of_reached (Nat.zero_le _)

theorem waitCycles_holds {s : State} (n : Cycles) (hw : s.du.waiting = true)
    (h : (s.du.elapsed s.du.waitStart).toNat < s.du.waitN.toNat) : s.waitCycles n = s := by
  rw [State.waitCycles, if_pos hw, testWait_of_short h]

theorem waitCycles_ends {s : State} (n : Cycles) (hw : s.du.waiting = true)
    (h : s.du.waitN.toNat ≤ (s.du.elapsed s.du.waitStart).toNat) : s.waitCycles n = s.endWait := by
  rw [State.waitCycles, if_pos hw, testWait_of_reached h]

/-- The three waits differ in how the count is computed only (rule R133, rule R134, rule R135). -/
theorem waitBehaviour_unlessHalted (n : State → Cycles) :
    WaitBehaviour (unlessHalted · fun s => .next (s.waitCycles (n s))) n := by
  intro s hh
  simp only [unlessHalted_of s _ hh]
  refine ⟨fun hw hn => ?_, fun hw hn => ?_, fun hw hlt => ?_, fun hw hle => ?_⟩
  · rw [waitCycles_begins hw hn]; rfl
  · rw [hn, waitCycles_zero hw]; rfl
  · rw [waitCycles_holds _ hw hlt]
  · rw [waitCycles_ends _ hw hle]; rfl

/-- Settles O11. -/
theorem waitCyclesCounts : Obligations.WaitCyclesCounts :=
  fun n => waitBehaviour_unlessHalted fun _ => n

/-- Settles O12: the product of two 32-bit numbers fits in 64 bits, so the count is the exact one. -/
theorem waitDurations : Obligations.WaitDurations :=
  ⟨fun us => waitBehaviour_unlessHalted fun s => microsToCycles us s.seq.coreFreq,
    fun ms => waitBehaviour_unlessHalted fun s => millisToCycles ms s.seq.coreFreq,
    fun d hz => (Nat.mul_lt_mul'' d.isLt hz.isLt).trans_eq (by decide)⟩

/-! ### TICK and IRQ_RAISE -/

/-- A scheduled TICK or IRQ_RAISE happens whatever the block's agents are doing. -/
theorem step_occurs {s : State} {e : Event} {rest : List Event} (hok : s.params.ok = true)
    (hh : s.port.halted = false) (hs : s.env.sched = e :: rest) (he : e = .tick ∨ ∃ n, e = .raise n) :
    step s = occur e (s.withSched rest) := by
  obtain rfl | ⟨n, rfl⟩ := he <;>
  · rw [step, if_pos hok, nextAction, hs]
    exact unlessHalted_of _ _ hh

theorem step_tick {s : State} {rest : List Event} (hok : s.params.ok = true) (hh : s.port.halted = false)
    (hs : s.env.sched = .tick :: rest) : step s = .next (s.withSched rest).tick :=
  step_occurs hok hh hs (.inl rfl)

theorem step_raise {s : State} {n : Nat} {rest : List Event} (hok : s.params.ok = true)
    (hh : s.port.halted = false) (hs : s.env.sched = .raise n :: rest) (hn : n < s.params.nslot) :
    step s = .next ((s.withSched rest).setLatch (pendAddr s.params n).toNat true) :=
  (step_occurs hok hh hs (.inr ⟨n, rfl⟩)).trans (if_pos hn)

/-- The counter's addition is modulo 2^64 (rule R130). -/
theorem cyc_add_one (c : Cycles) : c + 1#64 = BitVec.ofNat 64 ((c.toNat + 1) % 2 ^ 64) :=
  BitVec.eq_of_toNat_eq (by simp)

/-- Settles O36: a tick is the counter's increment, a raise is one latch set. -/
theorem tickAndRaise : Obligations.TickAndRaise := by
  intro s rest hok hh hwf
  refine ⟨fun hs => ?_, fun n hn hs => ⟨_, step_raise hok hh hs hn, ?_, ?_, fun x hx => ?_, rfl⟩⟩
  · rw [step_tick hok hh hs, ← cyc_add_one]
    rfl
  · have hread := Memory.read_write_same s.mem (pendAddr s.params n).toNat (slotByte true) hwf
    exact (congrArg (·.getLsbD 0) hread).trans (slotByte_bit true)
  · exact Memory.read_write_same _ _ _ hwf
  · exact Memory.read_write_other _ _ _ _ hx

/-! ### The wait over a run of ticks -/

/-- The counter `k` ticks on. -/
def State.advance (s : State) (k : Nat) : State :=
  { s with du := { s.du with cyc := s.du.cyc + BitVec.ofNat 64 k } }

theorem State.advance_zero (s : State) : s.advance 0 = s := by
  simp [State.advance]

theorem State.tick_advance (s : State) (k : Nat) : s.tick.advance k = s.advance (k + 1) := by
  simp only [State.advance, State.tick, BitVec.add_assoc, Nat.add_comm k 1, BitVec.ofNat_add]

/-- A run of `k` ticks advances the counter by `k`. -/
theorem run_ticks {rest : List Event} (m k : Nat) (s : State) (hok : s.params.ok = true)
    (hh : s.port.halted = false) (hs : s.env.sched = List.replicate k .tick ++ rest) :
    Host.Core.run Sys2Proof.core (k + m) s = Host.Core.run Sys2Proof.core m ((s.advance k).withSched rest) := by
  induction k generalizing s with
  | zero =>
    obtain rfl : s.env.sched = rest := hs
    rw [Nat.zero_add, State.advance_zero]
  | succ k ih =>
    calc Host.Core.run Sys2Proof.core (k + 1 + m) s
        = Host.Core.run Sys2Proof.core (k + m + 1) s := by rw [Nat.add_right_comm]
      _ = Host.Core.run Sys2Proof.core (k + m) (s.withSched (List.replicate k .tick ++ rest)).tick :=
        run_succ (step_tick hok hh hs) _
      _ = Host.Core.run Sys2Proof.core m ((s.tick.advance k).withSched rest) := ih _ hok hh rfl
      _ = Host.Core.run Sys2Proof.core m ((s.advance (k + 1)).withSched rest) := by rw [State.tick_advance]

/-- A turn of the block is the delay unit's while a WAIT_CYCLES request stands (42_clock_sequencer.md rule R171). -/
theorem step_waitCycles {s : State} {n : Cycles} {rest : List Event} (hok : s.params.ok = true)
    (hh : s.port.halted = false) (hr : s.du.req = some (duWord 2#3 n)) (hs : s.env.sched = .own :: rest) :
    step s = .next ((s.withSched rest).waitCycles n) := by
  have hnext : nextAction s = (.run (.delay (duWord 2#3 n)), s.withSched rest) := by
    simp [nextAction, hs, ownAction, hr]
  have hdecode : decode (.delay (duWord 2#3 n)) = .ok (.waitCycles n) := decodeEncode (.waitCycles n)
  rw [step, if_pos hok, hnext]
  calc act (.run (.delay (duWord 2#3 n))) (s.withSched rest)
      = runWord (.delay (duWord 2#3 n)) (s.withSched rest) := unlessHalted_of _ _ hh
    _ = exec (.waitCycles n) (s.withSched rest) := runWord_of_decode _ hdecode
    _ = .next ((s.withSched rest).waitCycles n) := (exec_waitCycles _ _).trans (unlessHalted_of _ _ hh)

/-- The elapsed count of a wait that began `k` ticks ago is `k`, wherever the counter started (rule R132). -/
theorem beginWait_advance_elapsed (s : State) (n : Cycles) {k : Nat} (hk : k < 2 ^ 64) :
    (((s.beginWait n).advance k).du.elapsed ((s.beginWait n).advance k).du.waitStart).toNat = k := by
  have hsub : ((s.beginWait n).advance k).du.elapsed ((s.beginWait n).advance k).du.waitStart
      = BitVec.ofNat 64 k := by
    rw [DelayUnit.elapsed, BitVec.sub_eq_iff_eq_add]
    exact BitVec.add_comm ..
  rw [hsub, BitVec.toNat_ofNat, Nat.mod_eq_of_lt hk]

/-- The state a begun wait is in when its test is made again, `k` ticks after its first turn. -/
def State.waitedFor (s : State) (n : Cycles) (k : Nat) : State := ((s.beginWait n).advance k).withSched []

/-- A turn, `k` ticks and a turn: the wait begins, the counter goes on, the test is made once more. -/
theorem run_wait {s : State} {n : Cycles} {k : Nat} (hok : s.params.ok = true) (hh : s.port.halted = false)
    (hn : n ≠ 0#64) (hr : s.du.req = some (duWord 2#3 n)) (hw : s.du.waiting = false)
    (hs : s.env.sched = .own :: (List.replicate k .tick ++ [.own])) :
    Host.Core.run Sys2Proof.core (k + 2) s = .next ((s.waitedFor n k).waitCycles n) := by
  have hbegin : (s.withSched (List.replicate k .tick ++ [.own])).waitCycles n
      = (s.beginWait n).withSched (List.replicate k .tick ++ [.own]) := waitCycles_begins hw hn
  have hfirst := step_waitCycles hok hh hr hs
  have hsecond : step (((s.beginWait n).advance k).withSched [.own]) = .next ((s.waitedFor n k).waitCycles n) :=
    step_waitCycles hok hh hr rfl
  rw [hbegin] at hfirst
  calc Host.Core.run Sys2Proof.core (k + 2) s
      = Host.Core.run Sys2Proof.core (k + 1) ((s.beginWait n).withSched (List.replicate k .tick ++ [.own])) :=
        run_succ hfirst (k + 1)
    _ = Host.Core.run Sys2Proof.core 1 (((s.beginWait n).advance k).withSched [.own]) :=
        run_ticks 1 k _ hok hh rfl
    _ = .next ((s.waitedFor n k).waitCycles n) := run_succ hsecond 0

/-- Settles O57: at the second turn `k` cycles have elapsed, so the test is `n ≤ k`. -/
theorem waitEndsOnCount : Obligations.WaitEndsOnCount := by
  intro s n k hok hh hn hk hr hw hd hs
  have helapsed := beginWait_advance_elapsed s n hk
  refine ⟨_, run_wait hok hh hn hr hw hs, fun hle => ?_, fun hlt => ?_⟩
  · have hend : (s.waitedFor n k).waitCycles n = (s.waitedFor n k).endWait :=
      waitCycles_ends n rfl (hle.trans_eq helapsed.symm)
    rw [hend]
    exact ⟨rfl, rfl, rfl, rfl⟩
  · have hhold : (s.waitedFor n k).waitCycles n = s.waitedFor n k :=
      waitCycles_holds n rfl (helapsed.trans_lt hlt)
    rw [hhold]
    exact ⟨hd, hr, rfl, rfl⟩

end Sys2Proof.Machine
end

section
/-! The clock configuration (41_clock_config.md): the five configuration commands' and descriptor reads' checks and
answers (rule R151 to rule R160), what the two halves of the block leave to each other (rule R155), and the descriptor
that nothing rewrites once it exists (rule R161). -/

namespace Sys2Proof.Machine

/-! ### A command accepted outside TRAPPED: its checks in the order of 30_encoding.md rule R110 -/

theorem contextPlain_iff {ph : TrapPhase} : contextPlain ph = true ↔ ph ≠ .trapped := bne_iff_ne

section PlainCommand

variable {s : State} {form : Bool} {pre : Option FaultCode} {body : State → Result}

theorem command_plain_badContext (hh : s.port.halted = false) (hc : s.itd.trapPhase = .trapped) :
    command s (contextPlain s.itd.trapPhase) form pre body = .next (fatalState s .badContext) :=
  command_rejected _ _ _ _ _ _ hh (by rw [hc]; rfl)

theorem command_plain_field (hh : s.port.halted = false) (hc : s.itd.trapPhase ≠ .trapped) (hf : ¬ form = true) :
    command s (contextPlain s.itd.trapPhase) form pre body = .next (fatalState s .field) :=
  command_rejected _ _ _ _ _ _ hh (by simp [firstFailure, contextPlain_iff.2 hc, hf])

theorem command_plain_pre {c : FaultCode} (hh : s.port.halted = false) (hc : s.itd.trapPhase ≠ .trapped)
    (hf : form = true) (hp : pre = some c) :
    command s (contextPlain s.itd.trapPhase) form pre body = .next (fatalState s c) :=
  command_rejected _ _ _ _ _ _ hh (by simp [firstFailure, contextPlain_iff.2 hc, hf, hp])

theorem command_plain_accepted (hh : s.port.halted = false) (hc : s.itd.trapPhase ≠ .trapped) (hf : form = true)
    (hp : pre = none) : command s (contextPlain s.itd.trapPhase) form pre body = body s :=
  command_accepted _ _ _ _ _ hh (contextPlain_iff.2 hc) hf hp

end PlainCommand

/-! ### Operand forms and preconditions -/

theorem formatS_iff {p : Params} {arg : Word} : formatS p arg = true ↔
    arg.extractLsb' 8 24 = 0#24 ∧ (p.sysclkEntry (arg.extractLsb' 0 8)).isSome = true := by
  rw [formatS, Bool.and_eq_true, beq_iff_eq]

theorem formatH_iff {arg : Word} : formatH arg = true ↔ arg ≠ 0#32 := bne_iff_ne

theorem formatZ_iff {arg : Word} : formatZ arg = true ↔ arg = 0#32 := beq_iff_eq

theorem tokenFree_iff {st : SeqState} : st.tokenFree = true ↔ st = .unconfigured ∨ st = .xtalTimeout := by
  rw [SeqState.tokenFree, Bool.or_eq_true, beq_iff_eq, beq_iff_eq]

theorem needToken_consumed {s : State} (hu : s.seq.state ≠ .unconfigured) (hx : s.seq.state ≠ .xtalTimeout) :
    needToken s = some .consumed :=
  if_neg fun h => (tokenFree_iff.1 h).elim hu hx

theorem needClocks_notFrozen {s : State} (h : s.clocks.valid = false) : needClocks s = some .notFrozen := by
  simp [needClocks, h]

/-! ### The configuration commands -/

theorem exec_cfgSysclk (arg : Word) (s : State) : exec (.cfgSysclk arg) s
    = configure s (formatS s.params arg) fun b => { b with tgtSysclk := arg.extractLsb' 0 8 } := rfl

theorem exec_cfgUart (hz : Word) (s : State) :
    exec (.cfgUart hz) s = configure s (formatH hz) fun b => { b with tgtUart := ⟨true, hz⟩ } := rfl

theorem exec_cfgSpi (hz : Word) (s : State) :
    exec (.cfgSpi hz) s = configure s (formatH hz) fun b => { b with tgtSpi := ⟨true, hz⟩ } := rfl

theorem exec_cfgXtal (hz : Word) (s : State) :
    exec (.cfgXtal hz) s = configure s (formatH hz) fun b => { b with xtal := ⟨true, hz⟩ } := rfl

/-- A configuration command with the token writes its register and responds (41_clock_config.md rule R150). -/
theorem configure_accepted {s : State} {form : Bool} {set : Builder → Builder} (hh : s.port.halted = false)
    (hc : s.itd.trapPhase ≠ .trapped) (hf : form = true)
    (ht : s.seq.state = .unconfigured ∨ s.seq.state = .xtalTimeout) :
    configure s form set = .next { s with cfg := set s.cfg, port := okPort s 0#32 } :=
  command_plain_accepted hh hc hf (needToken_none.2 (tokenFree_iff.2 ht))

/-- Settles O1: the checks of a command accepted outside TRAPPED, with format S and the token. -/
theorem cfgSysclk : Obligations.CfgSysclk := by
  intro s arg hh
  simp only [Raises, exec_cfgSysclk]
  refine ⟨fun hc => command_plain_badContext hh hc, fun hc hf => ?_, fun hc hhigh hkey hu hx => ?_,
    fun hc hhigh hkey ht => ?_⟩
  · exact command_plain_field hh hc (mt formatS_iff.1 hf)
  · exact command_plain_pre hh hc (formatS_iff.2 ⟨hhigh, hkey⟩) (needToken_consumed hu hx)
  · exact configure_accepted hh hc (formatS_iff.2 ⟨hhigh, hkey⟩) ht

/-- The three frequency commands are one command but for the register they write. -/
theorem exec_cfgFrequency {i : Instr} {hz : Word} (hi : i ∈ [Instr.cfgUart hz, .cfgSpi hz, .cfgXtal hz]) (s : State) :
    ∃ set, exec i s = configure s (formatH hz) set := by
  simp only [List.mem_cons, List.not_mem_nil, or_false] at hi
  obtain rfl | rfl | rfl := hi
  · exact ⟨_, exec_cfgUart hz s⟩
  · exact ⟨_, exec_cfgSpi hz s⟩
  · exact ⟨_, exec_cfgXtal hz s⟩

/-- Settles O2: the three commands share their checks and differ in the register only. -/
theorem cfgFrequencies : Obligations.CfgFrequencies := by
  intro s hz hh
  refine ⟨fun i hi => ?_, fun hc h0 ht => ?_⟩
  · obtain ⟨set, hx⟩ := exec_cfgFrequency hi s
    simp only [Raises, hx]
    refine ⟨fun hc => command_plain_badContext hh hc, fun hc h0 => ?_, fun hc h0 hu hx => ?_⟩
    · exact command_plain_field hh hc fun hf => formatH_iff.1 hf h0
    · exact command_plain_pre hh hc (formatH_iff.2 h0) (needToken_consumed hu hx)
  · have hf : formatH hz = true := formatH_iff.2 h0
    rw [exec_cfgUart, exec_cfgSpi, exec_cfgXtal]
    exact ⟨configure_accepted hh hc hf ht, configure_accepted hh hc hf ht, configure_accepted hh hc hf ht⟩

/-! ### The descriptor reads -/

theorem exec_rdSysclk (arg : Word) (s : State) : exec (.rdSysclk arg) s = readClocks s arg (·.sysclkHz) := rfl

theorem exec_rdUart (arg : Word) (s : State) : exec (.rdUart arg) s = readClocks s arg (·.uartHz) := rfl

theorem exec_rdSpi (arg : Word) (s : State) : exec (.rdSpi arg) s = readClocks s arg (·.spiHz) := rfl

theorem exec_rdPllen (arg : Word) (s : State) :
    exec (.rdPllen arg) s = readClocks s arg fun c => if c.pllEn then 1#32 else 0#32 := rfl

theorem exec_rdXtal (arg : Word) (s : State) :
    exec (.rdXtal arg) s = readClocks s arg fun c => if c.xtal.valid then c.xtal.hz else 0#32 := rfl

/-- A read of an existing descriptor answers its value and changes nothing but the response. -/
theorem readClocks_accepted {s : State} {value : Clocks → Word} (hh : s.port.halted = false)
    (hc : s.itd.trapPhase ≠ .trapped) (hv : s.clocks.valid = true) :
    readClocks s 0#32 value = .next { s with port := okPort s (value s.clocks) } :=
  command_plain_accepted hh hc rfl (needClocks_none.2 hv)

/-- The five reads are one command but for the value they answer. -/
theorem exec_descriptorRead {i : Instr} {arg : Word}
    (hi : i ∈ [Instr.rdSysclk arg, .rdUart arg, .rdSpi arg, .rdPllen arg, .rdXtal arg]) (s : State) :
    ∃ value, exec i s = readClocks s arg value := by
  simp only [List.mem_cons, List.not_mem_nil, or_false] at hi
  obtain rfl | rfl | rfl | rfl | rfl := hi
  · exact ⟨_, exec_rdSysclk arg s⟩
  · exact ⟨_, exec_rdUart arg s⟩
  · exact ⟨_, exec_rdSpi arg s⟩
  · exact ⟨_, exec_rdPllen arg s⟩
  · exact ⟨_, exec_rdXtal arg s⟩

/-- Settles O4: the five reads share their checks and differ in the value only. -/
theorem descriptorReads : Obligations.DescriptorReads := by
  intro s arg hh
  refine ⟨fun i hi => ?_, ?_⟩
  · obtain ⟨value, hx⟩ := exec_descriptorRead hi s
    simp only [Raises, hx]
    refine ⟨fun hc => command_plain_badContext hh hc, fun hc h0 => ?_, fun hc h0 hv => ?_⟩
    · exact command_plain_field hh hc (mt formatZ_iff.1 h0)
    · exact command_plain_pre hh hc (formatZ_iff.2 h0) (needClocks_notFrozen hv)
  · rintro hc rfl hv
    simp only [exec_rdSysclk, exec_rdUart, exec_rdSpi, exec_rdPllen, exec_rdXtal, readClocks_accepted hh hc hv,
      true_and]
    exact ⟨fun hp => by rw [if_pos hp], fun hp => by simp [hp], fun hx => by rw [if_pos hx], fun hx => by simp [hx]⟩

/-! ### What the two halves leave to each other -/

/-- Only the sequencer writes the clock-tree fields and the descriptor (rule R155, 20_memory.md rule R70). -/
theorem exec_clockTree_eq {i : Instr} {s t : State} (hi : agentOf i ≠ .sequencer) (h : exec i s = .next t) :
    t.ct = s.ct ∧ t.clocks = s.clocks := by
  cases ha : agentOf i with
  | clockCommand =>
    obtain ⟨-, hct, hclocks, -⟩ := clockCommand_frame ha h
    exact ⟨hct, hclocks⟩
  | dispatcherCommand =>
    obtain ⟨-, -, -, hct, hclocks, -⟩ := dispatcherCommand_frame ha h
    exact ⟨hct, hclocks⟩
  | delayUnit =>
    obtain ⟨-, -, -, hct, hclocks, -⟩ := delayUnit_frame ha h
    exact ⟨hct, hclocks⟩
  | sequencer => exact absurd ha hi

/-- No instruction of the clock half writes the dispatcher's registers, its memory or its traces. -/
theorem exec_dispatcher_eq {i : Instr} {s t : State} (hi : agentOf i ≠ .dispatcherCommand)
    (h : exec i s = .next t) :
    t.itd = s.itd ∧ t.mem = s.mem ∧ t.trace.mem = s.trace.mem ∧ t.trace.call = s.trace.call := by
  cases ha : agentOf i with
  | clockCommand =>
    obtain ⟨-, -, -, hitd, hmem, -, htrace, -⟩ := clockCommand_frame ha h
    exact ⟨hitd, hmem, by rw [htrace], by rw [htrace]⟩
  | dispatcherCommand => exact absurd ha hi
  | delayUnit =>
    obtain ⟨-, -, -, -, -, hitd, hmem, -, htm, htc, -⟩ := delayUnit_frame ha h
    exact ⟨hitd, hmem, htm, htc⟩
  | sequencer =>
    obtain ⟨-, hitd, hmem, htm, htc, -⟩ := sequencer_frame ha h
    exact ⟨hitd, hmem, htm, htc⟩

/-- The schedule is the environment's: no instruction uses up an entry. -/
theorem exec_sched {i : Instr} {s t : State} (h : exec i s = .next t) : t.env.sched = s.env.sched := by
  cases ha : agentOf i with
  | clockCommand =>
    obtain ⟨-, -, -, -, -, -, -, henv⟩ := clockCommand_frame ha h
    rw [henv]
  | dispatcherCommand =>
    obtain ⟨-, -, -, -, -, -, -, henv⟩ := dispatcherCommand_frame ha h
    rw [henv]
  | delayUnit =>
    obtain ⟨-, -, -, -, -, -, -, -, -, -, henv, -⟩ := delayUnit_frame ha h
    rw [henv]
  | sequencer =>
    obtain ⟨-, -, -, -, -, hsched, -⟩ := sequencer_frame ha h
    exact hsched

/-- Settles O53, from what each agent's instructions leave alone. -/
theorem halvesIsolated : Obligations.HalvesIsolated := by
  intro i s t h
  refine ⟨fun hi => ?_, fun hi => ?_, fun hi => exec_clockTree_eq hi h, exec_params h, exec_sched h, exec_cyc h⟩
  · obtain ⟨hitd, hmem, htm, htc⟩ := exec_dispatcher_eq hi h
    exact ⟨hitd, fun x => by rw [hmem], htm, htc⟩
  · obtain ⟨-, hcfg, hseq, hct, hclocks, hdu, hclk, -⟩ := dispatcherCommand_frame hi h
    exact ⟨hcfg, hseq, hct, hclocks, hdu, hclk⟩

/-! ### The descriptor after the sequence -/

/-- A micro-step is fetched from `seq_pc` and from no other port (30_encoding.md rule R112). -/
theorem agentOf_ne_sequencer {w : FetchWord} {i : Instr} (h : decode w = .ok i) (hw : ∀ pc, w ≠ .micro pc) :
    agentOf i ≠ .sequencer := by
  intro hi
  obtain ⟨pc, hpc⟩ : ∃ pc, encode i = .micro pc := by
    cases i <;> simp only [agentOf, reduceCtorEq] at hi <;> exact ⟨_, rfl⟩
  have hnow : i ≠ .now := by
    rintro rfl
    cases hi
  exact hw pc (((encodeDecode w i h).1 hnow).symm.trans hpc)

theorem runWord_command_clockTree_eq {w : BitVec 40} {s t : State} (h : runWord (.command w) s = .next t) :
    t.ct = s.ct ∧ t.clocks = s.clocks := by
  rcases runWord_next h with ⟨i, hd, hx⟩ | ⟨op, -, rfl⟩
  · exact exec_clockTree_eq (agentOf_ne_sequencer hd nofun) hx
  · exact ⟨rfl, rfl⟩

theorem deliver_clockTree_eq (s : State) : s.deliver.ct = s.ct ∧ s.deliver.clocks = s.clocks := by
  rcases deliver_cases s with h | ⟨n, -, h⟩ <;> rw [h] <;> exact ⟨rfl, rfl⟩

/-- While no sequence runs, whatever a step did left the clock tree and the descriptor as they were: the sequencer alone
writes them, and it has a turn only at a micro-step. -/
theorem Did.clockTree_eq {s t : State} {es : List Event} (h : Did s es t) (hidle : s.seq.pc = .idle) :
    t.ct = s.ct ∧ t.clocks = s.clocks := by
  cases h with
  | tick => exact ⟨rfl, rfl⟩
  | env e => exact ⟨rfl, rfl⟩
  | raise n hn => exact ⟨rfl, rfl⟩
  | trapFatal c hq => exact ⟨rfl, rfl⟩
  | trap v hs hq hv hd hp => exact ⟨rfl, rfl⟩
  | delay w i _ hr hd hx =>
    have hkept := exec_clockTree_eq (agentOf_ne_sequencer hd nofun) hx
    exact hkept
  | micro i _ hr hp hd hx => exact absurd hidle hp
  | cmd w _ hr hp hc hx =>
    have hkept := runWord_command_clockTree_eq hx
    exact hkept
  | deliver hr hp hc hd => exact deliver_clockTree_eq (s.withSched es)

/-- FROZEN is the state of no micro-step (10_state.md rule R23). -/
theorem StateAt.idle_of_frozen {s : State} (h : StateAt s) (hf : s.seq.state = .frozen) : s.seq.pc = .idle := by
  cases hpc : s.seq.pc with
  | idle => rfl
  | puBias => cases hw : s.written <;> simp [StateAt, hpc, hf, hw] at h
  | divcalc | uartdiv | spidiv | done => cases hx : s.cfg.xtal.valid <;> simp [StateAt, hpc, hf, hx] at h
  | _ => simp [StateAt, hpc, hf] at h

/-- Settles O49: a descriptor exists in FROZEN only, where no sequence runs. -/
theorem frozenImmutable : Obligations.FrozenImmutable := by
  intro s t hok hv hreset hstep
  obtain ⟨-, es, ⟨hs, -⟩ | ⟨hh, hdid⟩⟩ := step_did hstep
  · exact absurd hs (hreset es)
  · obtain ⟨-, hfrozen, -, hstate, -⟩ := hok hh
    obtain ⟨hct, hclocks⟩ := hdid.clockTree_eq (hstate.idle_of_frozen (hfrozen.1 hv))
    exact ⟨hclocks, hct⟩

end Sys2Proof.Machine
end

section
/-! The parameters of the clock half (00_scope.md rule R6): the bounds the micro-steps' field widths need, and what the
table of system clocks says of the RC oscillator. -/

namespace Sys2Proof.Machine

/-- The scalar constraints of rule R6 that a register's width or a loop's range turns on. -/
theorem Params.clock_bounds {p : Params} (h : p.ok = true) :
    p.nTaps ≤ 8 ∧ 1 ≤ p.xtalPollMax.toNat ∧ 0 < p.bclkMaxHz.toNat ∧ p.bclkDivMax ≤ 511
      ∧ (1 ≤ p.uartDivMax ∧ p.uartDivMax ≤ 255) ∧ 1 ≤ p.spiDivMax ∧ p.spiDivMax ≤ 255 := by
  simp only [Params.ok, Params.clockOk, Bool.and_eq_true, List.all_cons, id, decide_eq_true_eq] at h
  tauto

/-- An RC entry of `SYSCLK_TABLE` is the oscillator at its frequency, under the reset code. -/
theorem Params.rc_entry {p : Params} {e : SysclkEntry} (h : p.ok = true) (he : e ∈ p.sysclkTable) (hrc : e.src = .rc) :
    e.hz = p.fRcHz ∧ e.sel = p.sysclkResetSel := by
  obtain ⟨-, htable, -⟩ := Params.ok_cases h
  simp only [Params.sysclkTableOk, Bool.and_eq_true, List.all_eq_true] at htable
  obtain ⟨⟨-, hall⟩, -⟩ := htable
  simpa [hrc] using (hall e he).2

theorem Params.mem_of_sysclkEntry {p : Params} {sel : BitVec 8} {e : SysclkEntry} (h : p.sysclkEntry sel = some e) :
    e ∈ p.sysclkTable := List.mem_of_find?_eq_some h

/-- `SYSCLK_RESET_SEL` is a key, the one of the table's RC entry (rule R7 (d)). -/
theorem Params.sysclkResetSel_isKey {p : Params} (h : p.ok = true) :
    (p.sysclkEntry p.sysclkResetSel).isSome = true := by
  obtain ⟨-, htable, -⟩ := Params.ok_cases h
  simp only [Params.sysclkTableOk, Bool.and_eq_true, decide_eq_true_eq] at htable
  obtain ⟨-, hone⟩ := htable
  obtain ⟨e, he⟩ := List.exists_mem_of_length_pos (hone.symm ▸ Nat.one_pos)
  obtain ⟨hmem, hsrc⟩ := List.mem_filter.1 he
  obtain ⟨-, hsel⟩ := Params.rc_entry h hmem (by simpa using hsrc)
  exact List.find?_isSome.2 ⟨e, hmem, by simpa using hsel⟩

end Sys2Proof.Machine
end

section
/-! The micro-steps of the clock-tree sequence (42_clock_sequencer.md rule R170 to rule R205), each at one turn of the
sequencer: the next state, and whose turn it is. -/

namespace Sys2Proof.Machine

/-! ### FREEZE -/

theorem exec_freeze (arg : Word) (s : State) : exec (.freeze arg) s
    = command s (contextPlain s.itd.trapPhase) (formatZ arg) (needToken s) fun s =>
        .next { s with seq := { s.seq with busy := true, pc := .safe } } := rfl

/-- Settles O3: the checks of a command accepted outside TRAPPED, with format Z and the token. -/
theorem freezeStarts : Obligations.FreezeStarts := by
  intro s arg hh
  simp only [Raises, exec_freeze]
  refine ⟨fun hc => command_plain_badContext hh hc, fun hc h0 => ?_, fun hc h0 hu hx => ?_, fun hc h0 ht => ?_⟩
  · exact command_plain_field hh hc (mt formatZ_iff.1 h0)
  · exact command_plain_pre hh hc (formatZ_iff.2 h0) (needToken_consumed hu hx)
  · exact command_plain_accepted hh hc (formatZ_iff.2 h0) (needToken_none.2 (tokenFree_iff.2 ht))

/-! ### Micro-steps with one outcome: the meaning past the guard of rule R250 -/

/-- In a block that has not halted a micro-step answers what its rule says, the guard apart. -/
theorem exec_past_guard {i : Instr} {s : State} {r : Result} (hh : s.port.halted = false)
    (hx : exec i s = unlessHalted s fun _ => r := by rfl) : exec i s = r :=
  hx.trans (unlessHalted_of s _ hh)

/-- Settles O13. -/
theorem stepSafe : Obligations.StepSafe := fun _ hh => exec_past_guard hh

/-- Settles O15. -/
theorem stepXtalOn : Obligations.StepXtalOn := fun _ hh => exec_past_guard hh

/-- Settles O18. -/
theorem stepTimeout : Obligations.StepTimeout := fun _ hh => exec_past_guard hh

/-- Settles O25. -/
theorem switchAndShadow : Obligations.SwitchAndShadow :=
  fun _ hh => ⟨exec_past_guard hh, exec_past_guard hh⟩

/-- Settles O29. -/
theorem stepDone : Obligations.StepDone := fun _ hh => exec_past_guard hh

/-- A micro-step that writes one field and goes on, `ct` being the clock tree with the field's new value. -/
theorem exec_writes {i : Instr} {s : State} {f : CtField} {v : Nat} {pc : SeqPc} {ct : ClockTree}
    (hh : s.port.halted = false) (hct : s.ct.set f v = ct)
    (hx : exec i s = unlessHalted s fun s => .next ((s.ctWrite f v).goto pc) := by rfl) :
    exec i s = .next { s with
      ct := ct
      seq := { s.seq with pc := pc }
      trace := { s.trace with clk := s.trace.clk ++ [.w f v] } } := by
  subst hct
  exact hx.trans (unlessHalted_of s _ hh)

/-- Settles O20. -/
theorem pllParameterWrites : Obligations.PllParameterWrites := fun s hh =>
  ⟨exec_writes hh (by simp [ClockTree.set]), exec_writes hh (by simp [ClockTree.set]),
    exec_writes hh (by simp [ClockTree.set])⟩

theorem exec_sUartdiv {s : State} (hh : s.port.halted = false) : exec .sUartdiv s = .next { s with
    ct := { s.ct with uartDiv := s.seq.uartDivC }
    seq := { s.seq with pc := .spidiv }
    trace := { s.trace with clk := s.trace.clk ++ [.w .uartDiv s.seq.uartDivC.toNat] } } :=
  exec_writes hh (by simp [ClockTree.set])

theorem exec_sSpidiv {s : State} (hh : s.port.halted = false) : exec .sSpidiv s = .next { s with
    ct := { s.ct with spiDiv := s.seq.spiDivC }
    seq := { s.seq with pc := .done }
    trace := { s.trace with clk := s.trace.clk ++ [.w .spiDiv s.seq.spiDivC.toNat] } } :=
  exec_writes hh (by simp [ClockTree.set])

/-- Settles O28. -/
theorem dividerWrites : Obligations.DividerWrites := fun _ hh => ⟨exec_sUartdiv hh, exec_sSpidiv hh⟩

/-- `2^n - 1` in 8 bits is the ones below `n`. -/
theorem getLsbD_ones (n k : Nat) (h : n ≤ 8) : (BitVec.ofNat 8 (2 ^ n - 1)).getLsbD k = decide (k < n) := by
  rw [BitVec.getLsbD_ofNat, Nat.testBit_two_pow_sub_one, ← Bool.decide_and, decide_eq_decide]
  exact and_iff_right_of_imp fun hk => hk.trans_le h

/-- Settles O22: `NTAPS` is at most 8 (00_scope.md rule R6), so the number of all its ones fits the 8 bits. -/
theorem tapWrites : Obligations.TapWrites := by
  intro s hok hh
  obtain ⟨htaps, -⟩ := Params.clock_bounds hok
  have hfits : 2 ^ s.params.nTaps - 1 < 2 ^ 8 :=
    (Nat.sub_lt (Nat.two_pow_pos _) Nat.one_pos).trans_le (Nat.pow_le_pow_right Nat.two_pos htaps)
  exact ⟨⟨BitVec.ofNat 8 (2 ^ s.params.nTaps - 1), fun k => getLsbD_ones _ k htaps,
    (BitVec.toNat_ofNat ..).trans (Nat.mod_eq_of_lt hfits), exec_past_guard hh⟩, exec_writes hh rfl,
    exec_writes hh (by simp [ClockTree.set])⟩

/-! ### Micro-steps with a wait (rule R171) -/

/-- The three turns of a micro-step with a wait, its writes leaving the delay unit alone. -/
theorem heldMicroStep_of_heldFor {i : Instr} {us : Params → BitVec 32} {succ : SeqPc} {writes : State → State}
    (hx : ∀ s, exec i s = unlessHalted s fun s => .next (s.heldFor (us s.params) succ writes))
    (hw : ∀ s, (writes s).du = s.du) : HeldMicroStep i us succ writes := by
  intro s hh
  rw [hx, unlessHalted_of s _ hh]
  rcases heldFor_cases s (us s.params) succ writes with ⟨hd, he⟩ | ⟨hd, hr, he⟩ | ⟨hd, hr, he⟩ <;> rw [he]
  · exact ⟨fun h => by simp [hd] at h, fun h => by simp [hd] at h, fun _ => rfl⟩
  · exact ⟨fun _ h => by simp [h] at hr, fun _ _ => rfl, fun h => by simp [hd] at h⟩
  · refine ⟨fun _ _ => ?_, fun _ h => by simp [hr] at h, fun h => by simp [hd] at h⟩
    rw [State.requestMicros, hw]

/-- Settles O16. -/
theorem pollAndSettleWait : Obligations.PollAndSettleWait :=
  ⟨heldMicroStep_of_heldFor (fun _ => rfl) fun _ => rfl, heldMicroStep_of_heldFor (fun _ => rfl) fun _ => rfl⟩

/-- Settles O21: each of the seven has a wait and one write before it. -/
theorem powerUpSequence : Obligations.PowerUpSequence := by
  refine ⟨?_, ?_, ?_, ?_, ?_, ?_, ?_⟩
  all_goals exact heldMicroStep_of_heldFor (fun _ => rfl) fun _ => rfl

/-! ### Micro-steps with a choice -/

/-- Settles O14: the crystal's presence against the entry's source. -/
theorem stepReach : Obligations.StepReach := by
  intro s e hh he
  simp only [Raises, exec, execSReach, unlessHalted_of s _ hh, he]
  cases hx : s.cfg.xtal.valid <;> cases hs : e.src <;> simp [fatalState, State.fatal]

/-- Settles O17: the answer announced first, or a free one. -/
theorem stepPollRead : Obligations.StepPollRead := by
  rintro s b e hh (⟨rest, hrest, rfl⟩ | ⟨hnone, rfl, rfl⟩) <;>
  · simp only [exec, execSPollRead, unlessHalted_of s _ hh, State.ctReadXtalReady, *]
    rfl

/-- Settles O19: PLL_CONFIGURING is entered on both ways. -/
theorem stepPllLookup : Obligations.StepPllLookup := by
  intro s hh
  simp only [exec, execSPllLookup, unlessHalted_of s _ hh, State.enterState_params, State.enterState_cfg]
  refine ⟨fun e he => ?_, fun hnone => ?_⟩
  · simp [he]
  · simp only [hnone]; rfl

/-- Settles O24: the threshold's comparison is of unsigned numbers. -/
theorem stepIcache : Obligations.StepIcache := by
  intro s hh
  simp only [exec, execSIcache, unlessHalted_of s _ hh]
  refine ⟨fun h => ?_, fun h => ?_⟩
  · rw [if_pos (BitVec.lt_def.2 h)]; rfl
  · rw [if_neg (mt BitVec.lt_def.1 (Nat.not_lt.2 h))]; rfl

/-- `(a + b - 1) / b` is the least multiple of `b` that `a` fits in. -/
theorem ceil_div_le_iff {a b d : Nat} (hb : 0 < b) : (a + b - 1) / b ≤ d ↔ a ≤ d * b := by
  rw [← Nat.ceilDiv_eq_add_pred_div, ceilDiv_le_iff_le_mul hb, Nat.mul_comm]

/-- `hclk_div` is written before the range check, `bclk_div` after it. -/
theorem exec_sBusdiv {s : State} (hh : s.port.halted = false) :
    exec .sBusdiv s = if s.params.bclkDivMax < busDivisor s.seq.tgtHz s.params.bclkMaxHz
      then .next ((s.ctWrite .hclkDiv 1).fatal .field)
      else .next (((s.ctWrite .hclkDiv 1).ctWrite .bclkDiv (busDivisor s.seq.tgtHz s.params.bclkMaxHz)).goto .icache) :=
  exec_past_guard hh

/-- Settles O23: the divisor is the ceiling. -/
theorem stepBusdiv : Obligations.StepBusdiv := by
  intro s d hok hh hpos hd
  obtain ⟨-, -, hmax, hfield, -⟩ := Params.clock_bounds hok
  have hceil : ∀ d', d ≤ d' ↔ s.seq.tgtHz.toNat ≤ d' * s.params.bclkMaxHz.toNat :=
    fun d' => hd ▸ ceil_div_le_iff hmax
  have hx := exec_sBusdiv hh
  rw [show busDivisor s.seq.tgtHz s.params.bclkMaxHz = d from hd.symm] at hx
  refine ⟨⟨?_, (hceil d).1 le_rfl, fun d' => (hceil d').2⟩, fun hlt => ?_, fun hle => ⟨?_, ?_⟩⟩
  · by_contra h0
    have := (hceil 0).1 (by omega)
    omega
  · rw [hx, if_pos hlt]; rfl
  · exact (BitVec.toNat_ofNat ..).trans (Nat.mod_eq_of_lt (hle.trans_lt (hfield.trans_lt (by decide))))
  · rw [hx, if_neg (Nat.not_lt.2 hle)]
    simp [State.ctWrite, State.goto, ClockTree.set]

/-! ### The dividers -/

/-- What the divider check answers (rule R198). -/
theorem divcheck_eq_some {src : Hz} {tgt : OptFreq} {max d : Nat} {hz : Hz} (hv : tgt.valid = true) :
    divcheck src tgt max = some (d, hz) ↔
      1 ≤ d ∧ d ≤ max ∧ d * tgt.hz.toNat = src.toNat ∧ hz = tgt.hz ∧ d = src.toNat / tgt.hz.toNat := by
  simp only [divcheck, hv, if_true]
  split
  · simp only [Option.some.injEq, Prod.mk.injEq]
    constructor
    · rintro ⟨rfl, rfl⟩; tauto
    · rintro ⟨-, -, -, rfl, rfl⟩; tauto
  · simp only [reduceCtorEq, false_iff]
    rintro ⟨h1, h2, h3, -, rfl⟩
    tauto

theorem divcheck_absent {src : Hz} {tgt : OptFreq} {max : Nat} (hv : tgt.valid = false) :
    divcheck src tgt max = some (1, src) := by
  simp [divcheck, hv]

/-- Settles O26: a divisor of a frequency that is not 0 is the quotient. -/
theorem divcheckExact : Obligations.DivcheckExact := by
  intro src tgt max
  refine ⟨divcheck_absent, fun hv h0 => ⟨fun d h1 hmax hd => ?_, fun hnone => ?_, ?_⟩⟩
  · have hpos : 0 < tgt.hz.toNat := Nat.pos_of_ne_zero fun h => h0 (BitVec.eq_of_toNat_eq h)
    exact (divcheck_eq_some hv).2 ⟨h1, hmax, hd, rfl, by rw [← hd, Nat.mul_div_cancel _ hpos]⟩
  · by_contra hsome
    obtain ⟨⟨d, hz⟩, hd⟩ := Option.ne_none_iff_exists'.1 hsome
    obtain ⟨h1, hmax, hexact, -⟩ := (divcheck_eq_some hv).1 hd
    exact hnone d h1 hmax hexact
  · rintro ⟨d, hz⟩ hd
    obtain ⟨h1, hmax, hexact, rfl, -⟩ := (divcheck_eq_some hv).1 hd
    exact ⟨h1, hmax, hexact, rfl⟩

/-- Whether asked for or not, the divisor is exact and in range (rule R198). -/
theorem divcheck_exact {src : Hz} {tgt : OptFreq} {max d : Nat} {hz : Hz} (hmax : 1 ≤ max)
    (h : divcheck src tgt max = some (d, hz)) : 1 ≤ d ∧ d ≤ max ∧ d * hz.toNat = src.toNat := by
  cases hv : tgt.valid
  · cases (divcheck_absent hv).symm.trans h
    exact ⟨le_rfl, hmax, Nat.one_mul _⟩
  · obtain ⟨h1, hle, hexact, rfl, -⟩ := (divcheck_eq_some hv).1 h
    exact ⟨h1, hle, hexact⟩

/-- A divisor fits its 8-bit register: both maxima are at most 255 (00_scope.md rule R6). -/
theorem divcheck_fits {src : Hz} {tgt : OptFreq} {max : Nat} {r : Nat × Hz} (hmax : 1 ≤ max ∧ max ≤ 255)
    (h : divcheck src tgt max = some r) : (BitVec.ofNat 8 r.1).toNat = r.1 := by
  obtain ⟨-, hle, -⟩ := divcheck_exact hmax.1 h
  exact (BitVec.toNat_ofNat ..).trans (Nat.mod_eq_of_lt (hle.trans_lt (hmax.2.trans_lt (by decide))))

/-- Settles O27. -/
theorem stepDivcalc : Obligations.StepDivcalc := by
  intro s hok hh
  obtain ⟨-, -, -, -, huart, hspi⟩ := Params.clock_bounds hok
  simp only [Raises, exec, execSDivcalc, unlessHalted_of s _ hh]
  refine ⟨fun hnone => ?_, fun u hu hnone => ?_, fun u v hu hv => ⟨divcheck_fits huart hu, divcheck_fits hspi hv, ?_⟩⟩
  · simp only [hnone]; rfl
  · simp only [hu, hnone]; rfl
  · simp only [hu, hv]

/-! ### Whose turn it is -/

/-- A turn of the block is a run of the word its agent fetches. -/
theorem step_of_ownAction {s s1 : State} {w : FetchWord} {i : Instr} (hok : s.params.ok = true)
    (hh : s.port.halted = false) (hturn : ownTurn s s1) (hown : ownAction s = .run w) (hd : decode w = .ok i) :
    step s = exec i s1 := by
  have hh1 : s1.port.halted = false := by
    obtain ⟨es, rfl⟩ := ownTurn_withSched hturn
    exact hh
  calc step s = act (.run w) s1 := by rw [step, if_pos hok, nextAction_ownTurn hturn, hown]
    _ = runWord w s1 := unlessHalted_of _ _ hh1
    _ = exec i s1 := runWord_of_decode _ hd

/-- Settles O30: the delay unit before the sequencer before the command in progress. -/
theorem stepRunsDecoded : Obligations.StepRunsDecoded := by
  refine ⟨fun s s1 hok hh hturn => ⟨fun w i hr hd => ?_, fun i hr hd => ?_, fun w i hr hp hc hd => ?_⟩,
    fun s w rest i hok hh hready hs hd => ?_⟩
  · exact step_of_ownAction hok hh hturn (by simp [ownAction, hr]) hd
  · have hp : s.seq.pc ≠ .idle := fun hp => by simp [hp, SeqPc.code, decode, decodeMicro] at hd
    exact step_of_ownAction hok hh hturn (by simp [ownAction, hr, hp]) hd
  · exact step_of_ownAction hok hh hturn (by simp [ownAction, hr, hp, hc]) hd
  · rw [step_presentedCommand hok hh hready hs, runWord_of_decode _ hd]

end Sys2Proof.Machine
end

section
/-! The sequence invariant of 42_clock_sequencer.md rule R206, its clauses by name and by the part of the sequence the
micro-step belongs to, and the moves that keep it: a wait at one micro-step, a move to the next one, the host's
commands while the sequencer is idle. -/

namespace Sys2Proof.Machine

/-! ### The clauses -/

/-- What `SequenceOk` says of a block that has not halted, its clauses by name. -/
structure InSequence (s : State) : Prop where
  busy : s.seq.busy = true ↔ s.seq.pc ≠ .idle
  frozen : s.clocks.valid = true ↔ s.seq.state = .frozen
  key : (s.params.sysclkEntry s.cfg.tgtSysclk).isSome = true
  state : StateAt s
  wait : WaitOk s
  values : ValuesOk s
  poll : PollOk s
  trace : ∃ before, s.trace.clk = before ++ s.sequenceTrace

theorem sequenceOk_iff {s : State} : SequenceOk s ↔ (s.port.halted = false → InSequence s) :=
  forall_congr' fun _ => ⟨fun ⟨h1, h2, h3, h4, h5, h6, h7, h8⟩ => ⟨h1, h2, h3, h4, h5, h6, h7, h8⟩,
    fun ⟨h1, h2, h3, h4, h5, h6, h7, h8⟩ => ⟨h1, h2, h3, h4, h5, h6, h7, h8⟩⟩

/-- No request stands, no wait is in progress, no completion signal is pending. -/
def UnitFree (s : State) : Prop := s.du.req = none ∧ s.du.done = false ∧ s.du.waiting = false

theorem waitOk_iff_unitFree {s : State} (hw : waitOf s.params s.seq.pc = none) : WaitOk s ↔ UnitFree s := by
  simp only [WaitOk, hw, UnitFree]

theorem waitOk_iff_held {s : State} {us : BitVec 32} (hw : waitOf s.params s.seq.pc = some us) :
    WaitOk s ↔ (s.du.req = none ∨ s.du.req = some (duWord 3#3 (us.setWidth 64)))
      ∧ (s.du.req.isSome = true → s.du.done = false)
      ∧ (s.du.waiting = true → s.du.req.isSome = true ∧ s.du.waitN = microsToCycles us s.seq.coreFreq) := by
  simp only [WaitOk, hw]

/-- With the delay unit free every micro-step can be entered. -/
theorem UnitFree.waitOk {s : State} (h : UnitFree s) : WaitOk s := by
  cases hw : waitOf s.params s.seq.pc with
  | none => exact (waitOk_iff_unitFree hw).2 h
  | some us =>
    obtain ⟨hreq, hdone, hwaiting⟩ := h
    exact (waitOk_iff_held hw).2 ⟨.inl hreq, fun _ => hdone, fun hc => by simp [hwaiting] at hc⟩

/-- The selected table entry is the latched target, and its source fits the crystal setting (rule R174). -/
def TargetLatched (s : State) : Prop :=
  ∃ e, s.params.sysclkEntry s.cfg.tgtSysclk = some e ∧ s.seq.tgtHz = e.hz
    ∧ (s.cfg.xtal.valid = true → e.src = .tap s.seq.tgtTap) ∧ (s.cfg.xtal.valid = false → e.src = .rc)

/-- The latched PLL parameters are the table's for the crystal (rule R179). -/
def PllLatched (s : State) : Prop :=
  ∃ e, s.params.pllEntry s.cfg.xtal.hz = some e ∧ s.seq.pllLatch = e.triple

/-- The block runs on the RC oscillator (rule R173). -/
def OnRc (s : State) : Prop := s.seq.coreFreq = s.params.fRcHz ∧ s.ct.rootSel = 0#1

/-- The block runs on the latched target, at the root clock the crystal setting selects. -/
def OnTarget (s : State) : Prop :=
  s.seq.coreFreq = s.seq.tgtHz ∧ s.ct.rootSel = if s.cfg.xtal.valid then 1#1 else 0#1

/-- The latched divisors are the divider checks' (rule R199). -/
def Divided (s : State) : Prop :=
  divcheck s.seq.tgtHz s.cfg.tgtUart s.params.uartDivMax = some (s.seq.uartDivC.toNat, s.seq.uartHzC)
    ∧ divcheck s.seq.tgtHz s.cfg.tgtSpi s.params.spiDivMax = some (s.seq.spiDivC.toNat, s.seq.spiHzC)

/-- The micro-steps of the PLL path before the PLL parameters are known. -/
def pollingSteps : List SeqPc := [.xtalOn, .pollWait, .pollRead, .timeout, .pllLookup]

/-- The micro-steps of the PLL path from the first parameter write up to the switch. -/
def configuringSteps : List SeqPc :=
  [.pllFb, .pllCp, .pllPd, .puBias, .puCore, .puCpdiv, .sdmSet, .sdmClr, .fbdvSet, .fbdvClr, .taps, .pllsel, .tapsel,
    .busdiv, .icache, .switch]

section Values

variable {s : State}

/-- The values of a sequence in progress, in the terms above. -/
theorem valuesOk_iff : ValuesOk s ↔
    (s.seq.pc.targetKnown = true → TargetLatched s)
      ∧ (s.seq.pc.pllOnly = true → s.cfg.xtal.valid = true)
      ∧ (s.cfg.xtal.valid = true → s.seq.pc.lookedUp = true → PllLatched s)
      ∧ (s.seq.pc.beforeSwitch = true → OnRc s)
      ∧ (s.seq.pc = .shadow → s.ct.rootSel = 1#1)
      ∧ (s.seq.pc = .settle → s.seq.coreFreq = s.seq.tgtHz ∧ s.ct.rootSel = 1#1)
      ∧ (s.seq.pc = .divcalc ∨ s.seq.pc.divided = true → OnTarget s)
      ∧ (s.seq.pc.divided = true → Divided s)
      ∧ (s.seq.pc = .spidiv ∨ s.seq.pc = .done → s.ct.uartDiv = s.seq.uartDivC)
      ∧ (s.seq.pc = .done → s.ct.spiDiv = s.seq.spiDivC) := Iff.rfl

theorem valuesOk_of_idle_or_safe (hpc : s.seq.pc = .idle ∨ s.seq.pc = .safe) : ValuesOk s := by
  obtain hpc | hpc := hpc <;>
    simp [valuesOk_iff, hpc, SeqPc.targetKnown, SeqPc.pllOnly, SeqPc.lookedUp, SeqPc.beforeSwitch, SeqPc.divided]

theorem valuesOk_reach (hpc : s.seq.pc = .reach) : ValuesOk s ↔ OnRc s := by
  simp [valuesOk_iff, hpc, SeqPc.targetKnown, SeqPc.pllOnly, SeqPc.lookedUp, SeqPc.beforeSwitch, SeqPc.divided]

theorem valuesOk_polling (hpc : s.seq.pc ∈ pollingSteps) :
    ValuesOk s ↔ TargetLatched s ∧ s.cfg.xtal.valid = true ∧ OnRc s := by
  have hphase : ∀ pc ∈ pollingSteps, pc.targetKnown = true ∧ pc.pllOnly = true ∧ pc.lookedUp = false
      ∧ pc.beforeSwitch = true ∧ pc.divided = false ∧ pc ≠ .shadow ∧ pc ≠ .settle ∧ pc ≠ .divcalc ∧ pc ≠ .spidiv
      ∧ pc ≠ .done := by decide
  simp [valuesOk_iff, hphase _ hpc]

theorem valuesOk_configuring (hpc : s.seq.pc ∈ configuringSteps) :
    ValuesOk s ↔ TargetLatched s ∧ s.cfg.xtal.valid = true ∧ PllLatched s ∧ OnRc s := by
  have hphase : ∀ pc ∈ configuringSteps, pc.targetKnown = true ∧ pc.pllOnly = true ∧ pc.lookedUp = true
      ∧ pc.beforeSwitch = true ∧ pc.divided = false ∧ pc ≠ .shadow ∧ pc ≠ .settle ∧ pc ≠ .divcalc ∧ pc ≠ .spidiv
      ∧ pc ≠ .done := by decide
  simp only [valuesOk_iff, hphase _ hpc, Bool.false_eq_true, true_imp_iff, false_imp_iff, or_self, and_true]
  tauto

theorem valuesOk_shadow (hpc : s.seq.pc = .shadow) :
    ValuesOk s ↔ TargetLatched s ∧ s.cfg.xtal.valid = true ∧ PllLatched s ∧ s.ct.rootSel = 1#1 := by
  simp only [valuesOk_iff, hpc, SeqPc.targetKnown, SeqPc.pllOnly, SeqPc.lookedUp, SeqPc.beforeSwitch, SeqPc.divided,
    reduceCtorEq, Bool.false_eq_true, true_imp_iff, false_imp_iff, or_self, true_and, and_true]
  tauto

theorem valuesOk_settle (hpc : s.seq.pc = .settle) :
    ValuesOk s ↔ TargetLatched s ∧ s.cfg.xtal.valid = true ∧ PllLatched s ∧ s.seq.coreFreq = s.seq.tgtHz
      ∧ s.ct.rootSel = 1#1 := by
  simp only [valuesOk_iff, hpc, SeqPc.targetKnown, SeqPc.pllOnly, SeqPc.lookedUp, SeqPc.beforeSwitch, SeqPc.divided,
    reduceCtorEq, Bool.false_eq_true, true_imp_iff, false_imp_iff, or_self, true_and, and_true]
  tauto

theorem valuesOk_divcalc (hpc : s.seq.pc = .divcalc) :
    ValuesOk s ↔ TargetLatched s ∧ (s.cfg.xtal.valid = true → PllLatched s) ∧ OnTarget s := by
  simp [valuesOk_iff, hpc, SeqPc.targetKnown, SeqPc.pllOnly, SeqPc.lookedUp, SeqPc.beforeSwitch, SeqPc.divided]

theorem valuesOk_divided (hpc : s.seq.pc.divided = true) :
    ValuesOk s ↔ TargetLatched s ∧ (s.cfg.xtal.valid = true → PllLatched s) ∧ OnTarget s ∧ Divided s
      ∧ (s.seq.pc ≠ .uartdiv → s.ct.uartDiv = s.seq.uartDivC)
      ∧ (s.seq.pc = .done → s.ct.spiDiv = s.seq.spiDivC) := by
  cases hs : s.seq.pc <;> simp only [hs, SeqPc.divided, Bool.false_eq_true] at hpc
  all_goals simp [valuesOk_iff, hs, SeqPc.targetKnown, SeqPc.pllOnly, SeqPc.lookedUp, SeqPc.beforeSwitch, SeqPc.divided]

end Values

/-! ### Where the invariant stays as it was -/

/-- The clock half of `t` is that of `s`, the counter and the reply of the delay unit apart. -/
structure SameClockHalf (s t : State) : Prop where
  params : t.params = s.params := by rfl
  cfg : t.cfg = s.cfg := by rfl
  seq : t.seq = s.seq := by rfl
  ct : t.ct = s.ct := by rfl
  clocks : t.clocks = s.clocks := by rfl
  req : t.du.req = s.du.req := by rfl
  done : t.du.done = s.du.done := by rfl
  waiting : t.du.waiting = s.du.waiting := by rfl
  waitN : t.du.waitN = s.du.waitN := by rfl
  clk : t.trace.clk = s.trace.clk := by rfl

/-- The invariant reads the clock half only. -/
theorem SameClockHalf.inSequence {s t : State} (h : SameClockHalf s t) (hs : InSequence s) : InSequence t := by
  obtain ⟨p, cfg, seq, ct, clocks, ⟨cyc, ws, wn, w, rq, rp, dn⟩, itd, mem, port, ⟨clk, tm, tc⟩, env⟩ := s
  obtain ⟨p', cfg', seq', ct', clocks', ⟨cyc', ws', wn', w', rq', rp', dn'⟩, itd', mem', port', ⟨clk', tm', tc'⟩,
    env'⟩ := t
  obtain ⟨rfl, rfl, rfl, rfl, rfl, rfl, rfl, rfl, rfl, rfl⟩ := h
  exact ⟨hs.busy, hs.frozen, hs.key, hs.state, hs.wait, hs.values, hs.poll, hs.trace⟩

/-- While the sequencer is idle the invariant says little. -/
theorem inSequence_of_idle {s : State} (hpc : s.seq.pc = .idle) (hbusy : s.seq.busy = false)
    (hfrozen : s.clocks.valid = true ↔ s.seq.state = .frozen)
    (hkey : (s.params.sysclkEntry s.cfg.tgtSysclk).isSome = true)
    (hstate : s.seq.state = .unconfigured ∨ s.seq.state = .frozen ∨ s.seq.state = .xtalTimeout)
    (hdu : UnitFree s) : InSequence s where
  busy := by simp [hpc, hbusy]
  frozen := hfrozen
  key := hkey
  state := by simpa [StateAt, hpc] using hstate
  wait := hdu.waitOk
  values := valuesOk_of_idle_or_safe (.inl hpc)
  poll := by simp [PollOk, hpc]
  trace := ⟨s.trace.clk, by simp [State.sequenceTrace, hpc]⟩

theorem InSequence.unitFree {s : State} (h : InSequence s) (hw : waitOf s.params s.seq.pc = none) : UnitFree s :=
  (waitOk_iff_unitFree hw).1 h.wait

theorem InSequence.state_of_idle {s : State} (h : InSequence s) (hpc : s.seq.pc = .idle) :
    s.seq.state = .unconfigured ∨ s.seq.state = .frozen ∨ s.seq.state = .xtalTimeout := by
  simpa [StateAt, hpc] using h.state

theorem InSequence.busy_of_idle {s : State} (h : InSequence s) (hpc : s.seq.pc = .idle) : s.seq.busy = false :=
  Bool.eq_false_iff.2 fun hb => h.busy.1 hb hpc

/-- While the sequence runs there is no descriptor yet. -/
theorem InSequence.no_descriptor {s : State} (h : InSequence s) (hpc : s.seq.pc ≠ .idle) : s.clocks.valid = false :=
  Bool.eq_false_iff.2 fun hv => hpc (h.state.idle_of_frozen (h.frozen.1 hv))

/-! ### Moves from one micro-step to another -/

/-- A move to another micro-step: what the sequence works with, the builder and the descriptor stay, the delay unit is
free, `events` are traced. -/
theorem InSequence.goesOn {s t : State} {events : List ClkEvent} (h : InSequence s) (hs : s.seq.pc ≠ .idle)
    (ht : t.seq.pc ≠ .idle) (hdu : UnitFree t) (hstate : StateAt t) (hvalues : ValuesOk t) (hpoll : PollOk t)
    (htrace : t.sequenceTrace = s.sequenceTrace ++ events)
    (hclk : t.trace.clk = s.trace.clk ++ events := by rfl) (hparams : t.params = s.params := by rfl)
    (hcfg : t.cfg = s.cfg := by rfl) (hclocks : t.clocks = s.clocks := by rfl)
    (hbusy : t.seq.busy = s.seq.busy := by rfl) : InSequence t where
  busy := by rw [hbusy]; exact ⟨fun _ => ht, fun _ => h.busy.2 hs⟩
  frozen := by
    rw [hclocks, h.no_descriptor hs]
    exact ⟨nofun, fun hf => absurd (hstate.idle_of_frozen hf) ht⟩
  key := by rw [hparams, hcfg]; exact h.key
  state := hstate
  wait := hdu.waitOk
  values := hvalues
  poll := hpoll
  trace := by
    obtain ⟨before, hbefore⟩ := h.trace
    exact ⟨before, by rw [hclk, hbefore, htrace, List.append_assoc]⟩

/-! ### Turns at one micro-step with a wait -/

/-- `t` is at the micro-step of `s`: the architectural state, the delay unit, the fields of the PLL and `clk_trace` may
differ. -/
structure SamePoint (s t : State) : Prop where
  params : t.params = s.params := by rfl
  cfg : t.cfg = s.cfg := by rfl
  seq : ∃ st, t.seq = { s.seq with state := st } := by exact ⟨_, rfl⟩
  clocks : t.clocks = s.clocks := by rfl
  rootSel : t.ct.rootSel = s.ct.rootSel := by rfl
  uartDiv : t.ct.uartDiv = s.ct.uartDiv := by rfl
  spiDiv : t.ct.spiDiv = s.ct.spiDiv := by rfl

theorem SamePoint.values {s t : State} (h : SamePoint s t) (hs : ValuesOk s) : ValuesOk t := by
  obtain ⟨hparams, hcfg, ⟨st, hseq⟩, -, hroot, huart, hspi⟩ := h
  unfold ValuesOk
  rw [hparams, hcfg, hseq, hroot, huart, hspi]
  exact hs

theorem SamePoint.poll {s t : State} (h : SamePoint s t) (hs : PollOk s) : PollOk t := by
  obtain ⟨hparams, hcfg, ⟨st, hseq⟩, -⟩ := h
  unfold PollOk
  rw [hparams, hcfg, hseq]
  exact hs

/-- The writes a micro-step with a wait makes before it (rule R176, rule R183 to rule R189, rule R197). -/
def heldWrites : SeqPc → List ClkEvent
  | .puBias => [.w .pllBiasEn 1]
  | .puCore => [.w .pllCoreEn 1]
  | .puCpdiv => [.w .pllCpdivEn 1]
  | .sdmSet => [.w .pllSdmRst 1]
  | .sdmClr => [.w .pllSdmRst 0]
  | .fbdvSet => [.w .pllFbdvRst 1]
  | .fbdvClr => [.w .pllFbdvRst 0]
  | _ => []

/-- The sequence's entries before those of the micro-step it holds at. -/
def State.heldTrace (s : State) : List ClkEvent :=
  ({ s with du := { s.du with req := none, done := false } } : State).sequenceTrace

/-- At a micro-step with a wait the sequence's entries end with that step's own, as far as they are made. -/
theorem sequenceTrace_held {s : State} {us : BitVec 32} (hw : waitOf s.params s.seq.pc = some us) :
    s.sequenceTrace = s.heldTrace ++ s.partDone (heldWrites s.seq.pc) us := by
  cases hpc : s.seq.pc <;> simp only [waitOf, hpc, reduceCtorEq, Option.some.injEq] at hw <;>
    simp [State.heldTrace, State.sequenceTrace, State.partDone, heldWrites, hpc, ← hw, traceConfigured, traceStable]

/-- They are the same at the same point. -/
theorem SamePoint.heldTrace {s t : State} (h : SamePoint s t) : t.heldTrace = s.heldTrace := by
  obtain ⟨hparams, hcfg, ⟨st, hseq⟩, -⟩ := h
  simp only [State.heldTrace, State.sequenceTrace, traceConfigured, traceStable, traceTail, State.partDone, hparams,
    hcfg, hseq]

/-- A turn at a micro-step with a wait: what the sequence has traced since is `events`. -/
theorem SamePoint.inSequence {s t : State} {us : BitVec 32} {events : List ClkEvent} (hpoint : SamePoint s t)
    (h : InSequence s) (hw : waitOf s.params s.seq.pc = some us) (hstate : StateAt t) (hwait : WaitOk t)
    (hclk : t.trace.clk = s.trace.clk ++ events)
    (hpart : t.partDone (heldWrites s.seq.pc) us = s.partDone (heldWrites s.seq.pc) us ++ events) : InSequence t := by
  have hvalues := hpoint.values h.values
  have hpoll := hpoint.poll h.poll
  have hheld := hpoint.heldTrace
  obtain ⟨hparams, hcfg, ⟨st, hseq⟩, hclocks, -⟩ := hpoint
  have hpc : t.seq.pc = s.seq.pc := by rw [hseq]
  have hrun : s.seq.pc ≠ .idle := fun hi => by simp [hi, waitOf] at hw
  refine ⟨?_, ?_, ?_, hstate, hwait, hvalues, hpoll, ?_⟩
  · rw [hseq]; exact h.busy
  · rw [hclocks, h.no_descriptor hrun]
    exact ⟨nofun, fun hf => absurd (hpc.symm.trans (hstate.idle_of_frozen hf)) hrun⟩
  · rw [hparams, hcfg]; exact h.key
  · obtain ⟨before, hbefore⟩ := h.trace
    refine ⟨before, ?_⟩
    rw [hclk, hbefore, sequenceTrace_held hw, sequenceTrace_held (s := t) (us := us) (by rw [hparams, hpc, hw]), hheld,
      hpc, hpart]
    simp only [List.append_assoc]

/-- `seq_state` at a micro-step turns on nothing of the delay unit but whether the writes are made. -/
theorem StateAt.congr {s t : State} (h : StateAt s) (hseq : t.seq = s.seq) (hcfg : t.cfg = s.cfg)
    (hw : t.written = s.written) : StateAt t := by
  unfold StateAt at h ⊢
  rw [hseq, hcfg, hw]
  exact h

section Held

variable {s : State} {us : BitVec 32}

/-- A standing request is the wait's (rule R171). -/
theorem InSequence.request_eq (h : InSequence s) (hw : waitOf s.params s.seq.pc = some us) {w : BitVec 67}
    (hreq : s.du.req = some w) : w = duWord 3#3 (us.setWidth 64) := by
  obtain ⟨hword, -⟩ := (waitOk_iff_held hw).1 h.wait
  simpa [hreq] using hword

/-- At the completion signal the unit is free. -/
theorem InSequence.free_of_done (h : InSequence s) (hw : waitOf s.params s.seq.pc = some us)
    (hdone : s.du.done = true) : s.du.req = none ∧ s.du.waiting = false := by
  obtain ⟨-, hnd, hwaiting⟩ := (waitOk_iff_held hw).1 h.wait
  have hreq : ¬ s.du.req.isSome = true := fun hr => by simp [hnd hr] at hdone
  exact ⟨by simpa using hreq, Bool.eq_false_iff.2 fun hc => hreq (hwaiting hc).1⟩

/-- The wait begins. -/
theorem InSequence.beginWait (h : InSequence s) (hw : waitOf s.params s.seq.pc = some us)
    (hreq : s.du.req.isSome = true) : InSequence (s.beginWait (microsToCycles us s.seq.coreFreq)) := by
  obtain ⟨hword, hdone, -⟩ := (waitOk_iff_held hw).1 h.wait
  have hpoint : SamePoint s (s.beginWait (microsToCycles us s.seq.coreFreq)) := {}
  exact hpoint.inSequence h hw (h.state.congr rfl rfl rfl)
    ((waitOk_iff_held (s := s.beginWait _) hw).2 ⟨hword, hdone, fun _ => ⟨hreq, rfl⟩⟩)
    (List.append_nil _).symm (List.append_nil _).symm

/-- The wait ends, with its entry `D` of the cycles its duration is at the recorded frequency. -/
theorem InSequence.endWait (h : InSequence s) (hw : waitOf s.params s.seq.pc = some us)
    (hreq : s.du.req.isSome = true) (hn : s.du.waitN = microsToCycles us s.seq.coreFreq) : InSequence s.endWait := by
  obtain ⟨-, hdone, -⟩ := (waitOk_iff_held hw).1 h.wait
  have hpoint : SamePoint s s.endWait := {}
  refine hpoint.inSequence h hw (h.state.congr rfl rfl (by simp [State.written, hreq]))
    ((waitOk_iff_held (s := s.endWait) hw).2 (by simp)) (events := [.d (microsToCycles us s.seq.coreFreq)]) ?_ ?_
  · simp [hn]
  · simp [State.partDone, hdone hreq, hreq]

/-- A turn of the delay unit at the wait's request (40_delay_unit.md rule R133, rule R134). -/
theorem InSequence.waitCycles (h : InSequence s) (hw : waitOf s.params s.seq.pc = some us)
    (hreq : s.du.req.isSome = true) : InSequence (s.waitCycles (microsToCycles us s.seq.coreFreq)) := by
  obtain ⟨-, -, hwaiting⟩ := (waitOk_iff_held hw).1 h.wait
  rcases waitCycles_cases s (microsToCycles us s.seq.coreFreq) with ⟨hc, he | he⟩ | ⟨-, he | he⟩ <;> rw [he]
  · exact h.endWait hw hreq (hwaiting hc).2
  · exact h
  · exact (h.beginWait hw hreq).endWait hw hreq rfl
  · exact h.beginWait hw hreq

/-- The micro-step's writes and its request. -/
theorem InSequence.request (h : InSequence s) (hw : waitOf s.params s.seq.pc = some us) {before : State → State}
    (hreq : s.du.req = none) (hdone : s.du.done = false) (hpoint : SamePoint s (before s))
    (hdu : (before s).du = s.du) (hclk : (before s).trace.clk = s.trace.clk ++ heldWrites s.seq.pc)
    (hstate : StateAt ((before s).requestMicros us)) : InSequence ((before s).requestMicros us) := by
  obtain ⟨-, -, hwaiting⟩ := (waitOk_iff_held hw).1 h.wait
  have hpoint' : SamePoint s ((before s).requestMicros us) := { hpoint with }
  have hw' : waitOf ((before s).requestMicros us).params ((before s).requestMicros us).seq.pc = some us := by
    obtain ⟨hparams, -, ⟨st, hseq⟩, -⟩ := hpoint'
    rw [hparams, hseq, hw]
  refine hpoint'.inSequence h hw hstate ((waitOk_iff_held hw').2 ?_) hclk ?_
  · have hfree : s.du.waiting = false := Bool.eq_false_iff.2 fun hc => by simpa [hreq] using hwaiting hc
    simp [hdu, hdone, hfree]
  · simp [State.partDone, hdu, hreq, hdone]

end Held

/-- The sequencer moved on from a micro-step with a wait. -/
def State.movedOn (s : State) (succ : SeqPc) : State :=
  { s with du := { s.du with done := false }, seq := { s.seq with pc := succ } }

/-- Moving on traces nothing: the micro-step's own entries are all made. -/
theorem InSequence.movedOn {s : State} {us : BitVec 32} {succ : SeqPc} (h : InSequence s)
    (hw : waitOf s.params s.seq.pc = some us) (hdone : s.du.done = true) (hsucc : succ ≠ .idle)
    (hstate : StateAt (s.movedOn succ)) (hvalues : ValuesOk (s.movedOn succ)) (hpoll : PollOk (s.movedOn succ))
    (htrace : (s.movedOn succ).sequenceTrace = s.sequenceTrace) : InSequence (s.movedOn succ) := by
  obtain ⟨hreq, hwaiting⟩ := h.free_of_done hw hdone
  refine h.goesOn (events := []) ?_ hsucc ⟨hreq, rfl, hwaiting⟩ hstate hvalues hpoll ?_ (List.append_nil _).symm
  · intro hi
    simp [hi, waitOf] at hw
  · rw [htrace, List.append_nil]

/-- A turn of the sequencer at a micro-step with a wait (rule R171): its writes and request, a hold, or the move on. -/
theorem InSequence.heldFor {s : State} {us : BitVec 32} {succ : SeqPc} {before : State → State} (h : InSequence s)
    (hw : waitOf s.params s.seq.pc = some us) (hstate : StateAt ((before s).requestMicros us))
    (hclk : (before s).trace.clk = s.trace.clk ++ heldWrites s.seq.pc)
    (hmove : s.du.done = true → InSequence (s.movedOn succ)) (hpoint : SamePoint s (before s) := by exact {})
    (hdu : (before s).du = s.du := by rfl) : InSequence (s.heldFor us succ before) := by
  rcases heldFor_cases s us succ before with ⟨hdone, he⟩ | ⟨-, -, he⟩ | ⟨hdone, hreq, he⟩ <;> rw [he]
  · exact hmove hdone
  · exact h
  · exact h.request hw hreq hdone hpoint hdu hclk hstate

end Sys2Proof.Machine
end

section
/-! The sequence invariant at each of the 29 micro-steps (42_clock_sequencer.md rule R173 to rule R205). -/

namespace Sys2Proof.Machine

section MicroSteps

variable {s t : State}

/-! ### The root clock and the reachability check -/

theorem sSafe_inSequence (h : InSequence s) (hpc : s.seq.pc = .safe) (hh : s.port.halted = false)
    (hx : exec .sSafe s = .next t) : InSequence t := by
  cases (stepSafe s hh).symm.trans hx
  exact h.goesOn (events := [.w .rootSel 0]) (by simp [hpc]) (by simp) (h.unitFree (by rw [hpc]; rfl)) rfl
    ((valuesOk_reach rfl).2 ⟨rfl, rfl⟩) trivial (by simp [State.sequenceTrace, hpc])

/-- The RC oscillator's frequency is the target's exactly on the RC path, where the sequence goes on to the dividers. -/
theorem sReach_inSequence (h : InSequence s) (hpc : s.seq.pc = .reach) (hok : s.params.ok = true)
    (hh : s.port.halted = false) (hx : exec .sReach s = .next t) (ht : t.port.halted = false) : InSequence t := by
  obtain ⟨e, he⟩ := Option.isSome_iff_exists.1 h.key
  obtain ⟨hrc, hnotap, hnorc, htap⟩ := stepReach s e hh he
  obtain ⟨hcore, hroot⟩ := (valuesOk_reach hpc).1 h.values
  have hfree : UnitFree s := h.unitFree (by rw [hpc]; rfl)
  have hstate : s.seq.state = .safeDefault := by simpa [StateAt, hpc] using h.state
  cases hxtal : s.cfg.xtal.valid <;> cases hsrc : e.src
  · obtain ⟨hhz, -⟩ := Params.rc_entry hok (Params.mem_of_sysclkEntry he) hsrc
    cases (hrc hxtal hsrc).symm.trans hx
    refine h.goesOn (events := []) (by simp [hpc]) (by simp) hfree ?_ ((valuesOk_divcalc rfl).2 ⟨?_, ?_, ?_⟩) ?_ ?_
      (List.append_nil _).symm
    · simpa [StateAt, hxtal] using hstate
    · exact ⟨e, he, rfl, by simp [hxtal], fun _ => hsrc⟩
    · simp [hxtal]
    · exact ⟨hcore.trans hhz.symm, by simpa [hxtal] using hroot⟩
    · simp [PollOk, hxtal]
    · simp [State.sequenceTrace, traceTail, hpc, hxtal]
  · cases (hnotap hxtal (by simp [hsrc])).symm.trans hx
    simp [fatalState] at ht
  · cases (hnorc hxtal hsrc).symm.trans hx
    simp [fatalState] at ht
  · rename_i k
    cases (htap k hxtal hsrc).symm.trans hx
    refine h.goesOn (events := []) (by simp [hpc]) (by simp) hfree hstate
      ((valuesOk_polling (by simp [pollingSteps])).2 ⟨?_, hxtal, hcore, hroot⟩) trivial ?_ (List.append_nil _).symm
    · exact ⟨e, he, rfl, fun _ => hsrc, by simp [hxtal]⟩
    · simp [State.sequenceTrace, hpc]

/-! ### The crystal -/

theorem sXtalOn_inSequence (h : InSequence s) (hpc : s.seq.pc = .xtalOn) (hok : s.params.ok = true)
    (hh : s.port.halted = false) (hx : exec .sXtalOn s = .next t) : InSequence t := by
  obtain ⟨-, hmax, -⟩ := Params.clock_bounds hok
  have hvalues := (valuesOk_polling (by simp [hpc, pollingSteps])).1 h.values
  obtain ⟨hreq, hdone, hwaiting⟩ : UnitFree s := h.unitFree (by rw [hpc]; rfl)
  cases (stepXtalOn s hh).symm.trans hx
  refine h.goesOn (events := [.w .xtalPu 1]) (by simp [hpc]) (by simp) ⟨hreq, hdone, hwaiting⟩ rfl
    ((valuesOk_polling (by simp [pollingSteps])).2 hvalues) hmax ?_
  simp [State.sequenceTrace, hpc, traceXtalOn, pollRounds, State.partDone, hreq, hdone]

theorem sPollWait_inSequence (h : InSequence s) (hpc : s.seq.pc = .pollWait) (hh : s.port.halted = false)
    (hx : exec .sPollWait s = .next t) : InSequence t := by
  obtain ⟨htarget, hxtal, hcore, hroot⟩ := (valuesOk_polling (by simp [hpc, pollingSteps])).1 h.values
  have hw : waitOf s.params s.seq.pc = some s.params.xtalPollUs := by rw [hpc]; rfl
  have hstate : s.seq.state = .crystalPowering := by simpa [StateAt, hpc] using h.state
  have hcount : s.seq.pollCnt.toNat < s.params.xtalPollMax.toNat := by simpa [PollOk, hpc] using h.poll
  cases (exec_past_guard (r := .next (s.heldFor s.params.xtalPollUs .pollRead id)) hh).symm.trans hx
  refine h.heldFor hw (by simpa [StateAt, hpc] using hstate) (by simp [heldWrites, hpc]) fun hdone => ?_
  refine h.movedOn hw hdone (by simp) hstate
    ((valuesOk_polling (by simp [pollingSteps, State.movedOn])).2 ⟨htarget, hxtal, hcore, hroot⟩) hcount ?_
  simp [State.sequenceTrace, State.movedOn, State.partDone, hpc, hdone, hcore, rcWait]

/-- The answer to a read of `CT.xtal_ready` with what it leaves of the environment's (rule R178). -/
theorem exec_sPollRead (hh : s.port.halted = false) : ∃ (b : Bool) (e : Env),
    exec .sPollRead s = .next { s with
      seq := { s.seq with
        pollCnt := s.seq.pollCnt + 1#8
        pc := if b = true then .pllLookup
          else if s.seq.pollCnt + 1#8 = s.params.xtalPollMax then .timeout else .pollWait }
      trace := { s.trace with clk := s.trace.clk ++ [.r b] }
      env := e } := by
  cases ha : s.env.xtalAnswers with
  | nil => exact ⟨_, _, stepPollRead s _ _ hh (.inr ⟨ha, rfl, rfl⟩)⟩
  | cons b rest => exact ⟨_, _, stepPollRead s b _ hh (.inl ⟨rest, ha, rfl⟩)⟩

/-- One attempt more, and so one round more of the trace; the maximum being a byte, the count does not wrap. -/
theorem sPollRead_inSequence (h : InSequence s) (hpc : s.seq.pc = .pollRead) (hh : s.port.halted = false)
    (hx : exec .sPollRead s = .next t) : InSequence t := by
  have hvalues := (valuesOk_polling (by simp [hpc, pollingSteps])).1 h.values
  have hstate : s.seq.state = .crystalPowering := by simpa [StateAt, hpc] using h.state
  have hcount : s.seq.pollCnt.toNat < s.params.xtalPollMax.toNat := by simpa [PollOk, hpc] using h.poll
  have hsucc : (s.seq.pollCnt + 1#8).toNat = s.seq.pollCnt.toNat + 1 := by bv_omega
  have hrange : 1 ≤ (s.seq.pollCnt + 1#8).toNat ∧ (s.seq.pollCnt + 1#8).toNat ≤ s.params.xtalPollMax.toNat := by omega
  obtain ⟨hreq, hdone, hwaiting⟩ : UnitFree s := h.unitFree (by rw [hpc]; rfl)
  obtain ⟨b, e, hb⟩ := exec_sPollRead hh
  cases hb.symm.trans hx
  cases b with
  | true =>
    refine h.goesOn (events := [.r true]) (by simp [hpc]) (by simp) ⟨hreq, hdone, hwaiting⟩ hstate
      ((valuesOk_polling (by simp [pollingSteps])).2 hvalues) (fun _ => hrange) ?_
    simp [State.sequenceTrace, hpc, traceReady, hsucc]
  | false =>
    by_cases hmax : s.seq.pollCnt + 1#8 = s.params.xtalPollMax
    · simp only [Bool.false_eq_true, if_false, if_pos hmax]
      refine h.goesOn (events := [.r false]) (by simp [hpc]) (by simp) ⟨hreq, hdone, hwaiting⟩ hstate
        ((valuesOk_polling (by simp [pollingSteps])).2 hvalues) hmax ?_
      simp [State.sequenceTrace, hpc, hsucc, pollRounds, rcWait]
    · simp only [Bool.false_eq_true, if_false, if_neg hmax]
      have hlt : (s.seq.pollCnt + 1#8).toNat < s.params.xtalPollMax.toNat := by bv_omega
      refine h.goesOn (events := [.r false]) (by simp [hpc]) (by simp) ⟨hreq, hdone, hwaiting⟩ hstate
        ((valuesOk_polling (by simp [pollingSteps])).2 hvalues) hlt ?_
      simp [State.sequenceTrace, hpc, hsucc, pollRounds, rcWait, State.partDone, hreq, hdone]

theorem sTimeout_inSequence (h : InSequence s) (hpc : s.seq.pc = .timeout) (hok : s.params.ok = true)
    (hh : s.port.halted = false) (hx : exec .sTimeout s = .next t) : InSequence t := by
  have hnone : s.clocks.valid = false := h.no_descriptor (by simp [hpc])
  cases (stepTimeout s hh).symm.trans hx
  exact inSequence_of_idle rfl rfl (by simp [hnone]) (Params.sysclkResetSel_isKey hok) (.inr (.inr rfl))
    (h.unitFree (by rw [hpc]; rfl))

/-! ### The PLL's parameters and its power-up -/

theorem pollOk_configuring (hpc : s.seq.pc ∈ configuringSteps) : PollOk s ↔
    (s.cfg.xtal.valid = true → 1 ≤ s.seq.pollCnt.toNat ∧ s.seq.pollCnt.toNat ≤ s.params.xtalPollMax.toNat) := by
  have hphase : ∀ pc ∈ configuringSteps, pc ≠ .pollWait ∧ pc ≠ .pollRead ∧ pc ≠ .timeout ∧ pc ≠ .idle ∧ pc ≠ .safe
      ∧ pc ≠ .reach ∧ pc ≠ .xtalOn := by decide
  obtain ⟨hwait, hread, htimeout, hidle, hsafe, hreach, hon⟩ := hphase _ hpc
  unfold PollOk
  split
  case h_8 => rfl
  all_goals contradiction

theorem sPllLookup_inSequence (h : InSequence s) (hpc : s.seq.pc = .pllLookup) (hh : s.port.halted = false)
    (hx : exec .sPllLookup s = .next t) (ht : t.port.halted = false) : InSequence t := by
  obtain ⟨htarget, hxtal, hrc⟩ := (valuesOk_polling (by simp [hpc, pollingSteps])).1 h.values
  obtain ⟨hfound, hmissing⟩ := stepPllLookup s hh
  cases he : s.params.pllEntry s.cfg.xtal.hz with
  | none =>
    cases (hmissing he).symm.trans hx
    simp [fatalState] at ht
  | some e =>
    cases (hfound e he).symm.trans hx
    refine h.goesOn (events := []) (by simp [hpc]) (by simp) (h.unitFree (by rw [hpc]; rfl)) rfl
      ((valuesOk_configuring (by simp [configuringSteps])).2 ⟨htarget, hxtal, ⟨e, he, rfl⟩, hrc⟩) ?_ ?_
      (List.append_nil _).symm
    · simpa [PollOk, hpc] using h.poll
    · simp [State.sequenceTrace, hpc]

/-- A move between micro-steps from the first parameter write to the switch: they work with the same latched values. -/
theorem InSequence.configures {events : List ClkEvent} (h : InSequence s) (hs : s.seq.pc ∈ configuringSteps)
    (ht : t.seq.pc ∈ configuringSteps) (hfree : UnitFree t) (hstate : StateAt t)
    (htrace : t.sequenceTrace = s.sequenceTrace ++ events)
    (hclk : t.trace.clk = s.trace.clk ++ events := by rfl) (hparams : t.params = s.params := by rfl)
    (hcfg : t.cfg = s.cfg := by rfl) (hclocks : t.clocks = s.clocks := by rfl)
    (hseq : ∃ pc st, t.seq = { s.seq with pc := pc, state := st } := by exact ⟨_, _, rfl⟩)
    (hroot : t.ct.rootSel = s.ct.rootSel := by rfl) : InSequence t := by
  obtain ⟨pc, st, hseq⟩ := hseq
  have hrun : .idle ∉ configuringSteps := by decide
  have hvalues : ValuesOk t := by
    rw [valuesOk_configuring ht]
    simp only [TargetLatched, PllLatched, OnRc, hparams, hcfg, hseq, hroot]
    exact (valuesOk_configuring hs).1 h.values
  have hpoll : PollOk t := by
    rw [pollOk_configuring ht, hparams, hcfg, hseq]
    exact (pollOk_configuring hs).1 h.poll
  exact h.goesOn (fun hi => hrun (hi ▸ hs)) (fun hi => hrun (hi ▸ ht)) hfree hstate hvalues hpoll htrace hclk hparams
    hcfg hclocks (by rw [hseq])

theorem sPllFb_inSequence (h : InSequence s) (hpc : s.seq.pc = .pllFb) (hh : s.port.halted = false)
    (hx : exec .sPllFb s = .next t) : InSequence t := by
  obtain ⟨hfb, -, -⟩ := pllParameterWrites s hh
  cases hfb.symm.trans hx
  refine h.configures (by simp [hpc, configuringSteps]) (by simp [configuringSteps]) (h.unitFree (by rw [hpc]; rfl))
    (events := [.w .pllFb s.seq.pllLatch.fb.toNat]) (by simpa [StateAt, hpc] using h.state) ?_
  simp [State.sequenceTrace, hpc, tracePll]

theorem sPllCp_inSequence (h : InSequence s) (hpc : s.seq.pc = .pllCp) (hh : s.port.halted = false)
    (hx : exec .sPllCp s = .next t) : InSequence t := by
  obtain ⟨-, hcp, -⟩ := pllParameterWrites s hh
  cases hcp.symm.trans hx
  refine h.configures (by simp [hpc, configuringSteps]) (by simp [configuringSteps]) (h.unitFree (by rw [hpc]; rfl))
    (events := [.w .pllCp s.seq.pllLatch.cp.toNat]) (by simpa [StateAt, hpc] using h.state) ?_
  simp [State.sequenceTrace, hpc, tracePll]

theorem sPllPd_inSequence (h : InSequence s) (hpc : s.seq.pc = .pllPd) (hh : s.port.halted = false)
    (hx : exec .sPllPd s = .next t) : InSequence t := by
  obtain ⟨-, -, hpd⟩ := pllParameterWrites s hh
  obtain ⟨hreq, hdone, hwaiting⟩ : UnitFree s := h.unitFree (by rw [hpc]; rfl)
  cases hpd.symm.trans hx
  refine h.configures (by simp [hpc, configuringSteps]) (by simp [configuringSteps]) ⟨hreq, hdone, hwaiting⟩
    (events := [.w .pllPd s.seq.pllLatch.pd.toNat]) ?_ ?_
  · simpa [StateAt, hpc, State.written, hreq, hdone] using h.state
  · simp [State.sequenceTrace, hpc, tracePll, traceConfigured, State.partDone, hreq, hdone]

/-- The micro-steps of the power-up (rule R183 to rule R189). -/
def powerUpSteps : List SeqPc := [.puBias, .puCore, .puCpdiv, .sdmSet, .sdmClr, .fbdvSet, .fbdvClr]

/-- The micro-step a wait of the power-up leads to. -/
def SeqPc.afterWait : SeqPc → SeqPc
  | .puBias => .puCore
  | .puCore => .puCpdiv
  | .puCpdiv => .sdmSet
  | .sdmSet => .sdmClr
  | .sdmClr => .fbdvSet
  | .fbdvSet => .fbdvClr
  | .fbdvClr => .taps
  | pc => pc

theorem stateAt_powerUp (hs : s.seq.pc ∈ powerUpSteps) (hw : s.written = true) :
    StateAt s ↔ s.seq.state = .pllPoweringUp := by
  simp only [powerUpSteps, List.mem_cons, List.not_mem_nil, or_false] at hs
  obtain hpc | hpc | hpc | hpc | hpc | hpc | hpc := hs <;> simp [StateAt, hpc, hw]

theorem stateAt_movedOn (hs : s.seq.pc ∈ powerUpSteps) (hstate : s.seq.state = .pllPoweringUp) :
    StateAt (s.movedOn s.seq.pc.afterWait) := by
  simp only [powerUpSteps, List.mem_cons, List.not_mem_nil, or_false] at hs
  obtain hpc | hpc | hpc | hpc | hpc | hpc | hpc := hs <;> simp [StateAt, State.movedOn, SeqPc.afterWait, hpc, hstate]

/-- With its write and its wait a micro-step of the power-up has added its two entries of `tracePowerUp`. -/
theorem sequenceTrace_movedOn (hs : s.seq.pc ∈ powerUpSteps) (hdone : s.du.done = true)
    (hreq : s.du.req = none) (hcore : s.seq.coreFreq = s.params.fRcHz) :
    (s.movedOn s.seq.pc.afterWait).sequenceTrace = s.sequenceTrace := by
  simp only [powerUpSteps, List.mem_cons, List.not_mem_nil, or_false] at hs
  obtain hpc | hpc | hpc | hpc | hpc | hpc | hpc := hs <;>
    simp [State.sequenceTrace, State.movedOn, SeqPc.afterWait, State.partDone, hpc, hdone, hreq, hcore, traceConfigured,
      tracePowerUp, rcWait]

/-- A turn at a micro-step of the power-up: its write and request, the hold, the move to the next one. -/
theorem InSequence.powersUp {us : BitVec 32} {succ : SeqPc} {before : State → State} (h : InSequence s)
    (hs : s.seq.pc ∈ powerUpSteps) (hw : waitOf s.params s.seq.pc = some us) (hsucc : s.seq.pc.afterWait = succ)
    (hstate : (before s).seq.state = .pllPoweringUp)
    (hclk : (before s).trace.clk = s.trace.clk ++ heldWrites s.seq.pc) (hpoint : SamePoint s (before s) := by exact {})
    (hdu : (before s).du = s.du := by rfl) : InSequence (s.heldFor us succ before) := by
  have hphase : ∀ pc ∈ powerUpSteps, pc ∈ configuringSteps ∧ pc.afterWait ∈ configuringSteps := by decide
  obtain ⟨hconf, hnext⟩ := hphase _ hs
  subst hsucc
  refine h.heldFor hw ?_ hclk (fun hdone => ?_) hpoint hdu
  · obtain ⟨-, -, ⟨st, hseq⟩, -⟩ := hpoint
    exact (stateAt_powerUp (by simpa [hseq] using hs) (by simp [State.written])).2 hstate
  · obtain ⟨-, -, -, hcore, -⟩ := (valuesOk_configuring hconf).1 h.values
    obtain ⟨hreq, hwaiting⟩ := h.free_of_done hw hdone
    have hup := (stateAt_powerUp hs (by simp [State.written, hdone])).1 h.state
    exact h.configures (events := []) hconf hnext ⟨hreq, rfl, hwaiting⟩ (stateAt_movedOn hs hup)
      ((sequenceTrace_movedOn hs hdone hreq hcore).trans (List.append_nil _).symm) (List.append_nil _).symm

/-! ### The taps, the bus dividers and the switch -/

theorem sTaps_inSequence (h : InSequence s) (hpc : s.seq.pc = .taps) (hok : s.params.ok = true)
    (hh : s.port.halted = false) (hx : exec .sTaps s = .next t) : InSequence t := by
  obtain ⟨⟨v, -, -, htaps⟩, -, -⟩ := tapWrites s hok hh
  cases htaps.symm.trans hx
  refine h.configures (by simp [hpc, configuringSteps]) (by simp [configuringSteps]) (h.unitFree (by rw [hpc]; rfl))
    (events := [.w .pllTapEn (2 ^ s.params.nTaps - 1)]) rfl ?_
  simp [State.sequenceTrace, hpc, traceConfigured, traceTaps]

theorem sPllsel_inSequence (h : InSequence s) (hpc : s.seq.pc = .pllsel) (hok : s.params.ok = true)
    (hh : s.port.halted = false) (hx : exec .sPllsel s = .next t) : InSequence t := by
  obtain ⟨-, hsel, -⟩ := tapWrites s hok hh
  cases hsel.symm.trans hx
  refine h.configures (by simp [hpc, configuringSteps]) (by simp [configuringSteps]) (h.unitFree (by rw [hpc]; rfl))
    (events := [.w .pllSelEn 1]) (by simpa [StateAt, hpc] using h.state) ?_
  simp [State.sequenceTrace, hpc, traceConfigured, traceTaps]

theorem sTapsel_inSequence (h : InSequence s) (hpc : s.seq.pc = .tapsel) (hok : s.params.ok = true)
    (hh : s.port.halted = false) (hx : exec .sTapsel s = .next t) : InSequence t := by
  obtain ⟨-, -, htap⟩ := tapWrites s hok hh
  cases htap.symm.trans hx
  refine h.configures (by simp [hpc, configuringSteps]) (by simp [configuringSteps]) (h.unitFree (by rw [hpc]; rfl))
    (events := [.w .pllTapSel s.seq.tgtTap.toNat]) (by simpa [StateAt, hpc] using h.state) ?_
  simp [State.sequenceTrace, hpc, traceConfigured, traceTaps]

theorem sBusdiv_inSequence (h : InSequence s) (hpc : s.seq.pc = .busdiv) (hh : s.port.halted = false)
    (hx : exec .sBusdiv s = .next t) (ht : t.port.halted = false) : InSequence t := by
  rw [exec_sBusdiv hh] at hx
  split at hx <;> cases hx
  · simp at ht
  · refine h.configures (by simp [hpc, configuringSteps]) (by simp [configuringSteps]) (h.unitFree (by rw [hpc]; rfl))
      (events := [.w .hclkDiv 1, .w .bclkDiv (busDivisor s.seq.tgtHz s.params.bclkMaxHz)])
      (by simpa [StateAt, hpc] using h.state) ?_ (by simp)
    simp [State.sequenceTrace, hpc, traceConfigured, traceTaps]

theorem sIcache_inSequence (h : InSequence s) (hpc : s.seq.pc = .icache) (hh : s.port.halted = false)
    (hx : exec .sIcache s = .next t) : InSequence t := by
  obtain ⟨hfast, hslow⟩ := stepIcache s hh
  by_cases hlt : s.params.icacheWsThresholdHz.toNat < s.seq.tgtHz.toNat
  · cases (hfast hlt).symm.trans hx
    refine h.configures (by simp [hpc, configuringSteps]) (by simp [configuringSteps]) (h.unitFree (by rw [hpc]; rfl))
      (events := [.w .icacheWs 1]) (by simpa [StateAt, hpc] using h.state) ?_
    simp [State.sequenceTrace, hpc, traceStable, traceConfigured, traceIcache, BitVec.lt_def.2 hlt]
  · cases (hslow (Nat.not_lt.1 hlt)).symm.trans hx
    refine h.configures (by simp [hpc, configuringSteps]) (by simp [configuringSteps]) (h.unitFree (by rw [hpc]; rfl))
      (events := []) (by simpa [StateAt, hpc] using h.state) ?_ (List.append_nil _).symm
    simp [State.sequenceTrace, hpc, traceStable, traceConfigured, traceIcache, mt BitVec.lt_def.1 hlt]

theorem sSwitch_inSequence (h : InSequence s) (hpc : s.seq.pc = .switch) (hh : s.port.halted = false)
    (hx : exec .sSwitch s = .next t) : InSequence t := by
  have hs : s.seq.pc ∈ configuringSteps := by simp [hpc, configuringSteps]
  obtain ⟨htarget, hxtal, hpll, -⟩ := (valuesOk_configuring hs).1 h.values
  obtain ⟨hswitch, -⟩ := switchAndShadow s hh
  cases hswitch.symm.trans hx
  refine h.goesOn (events := [.w .rootSel 1]) (by simp [hpc]) (by simp) (h.unitFree (by rw [hpc]; rfl)) rfl
    ((valuesOk_shadow rfl).2 ⟨htarget, hxtal, hpll, rfl⟩) ((pollOk_configuring hs).1 h.poll) ?_
  simp [State.sequenceTrace, hpc, traceStable, traceConfigured]

theorem sShadow_inSequence (h : InSequence s) (hpc : s.seq.pc = .shadow) (hh : s.port.halted = false)
    (hx : exec .sShadow s = .next t) : InSequence t := by
  obtain ⟨htarget, hxtal, hpll, hroot⟩ := (valuesOk_shadow hpc).1 h.values
  obtain ⟨hreq, hdone, hwaiting⟩ : UnitFree s := h.unitFree (by rw [hpc]; rfl)
  obtain ⟨-, hshadow⟩ := switchAndShadow s hh
  cases hshadow.symm.trans hx
  refine h.goesOn (events := []) (by simp [hpc]) (by simp) ⟨hreq, hdone, hwaiting⟩
    (by simpa [StateAt, hpc] using h.state) ((valuesOk_settle rfl).2 ⟨htarget, hxtal, hpll, rfl, hroot⟩)
    (by simpa [PollOk, hpc] using h.poll) ?_ (List.append_nil _).symm
  simp [State.sequenceTrace, hpc, traceStable, traceConfigured, State.partDone, hreq, hdone]

/-- The settling time is counted at the frequency switched to (rule R197, 40_delay_unit.md rule R134). -/
theorem sSettle_inSequence (h : InSequence s) (hpc : s.seq.pc = .settle) (hh : s.port.halted = false)
    (hx : exec .sSettle s = .next t) : InSequence t := by
  obtain ⟨htarget, hxtal, hpll, hcore, hroot⟩ := (valuesOk_settle hpc).1 h.values
  have hw : waitOf s.params s.seq.pc = some s.params.tSettleUs := by rw [hpc]; rfl
  have hstate : s.seq.state = .rootClockSwitched := by simpa [StateAt, hpc] using h.state
  cases (exec_past_guard (r := .next (s.heldFor s.params.tSettleUs .divcalc id)) hh).symm.trans hx
  refine h.heldFor hw (by simpa [StateAt, hpc] using hstate) (by simp [heldWrites, hpc]) fun hdone => ?_
  refine h.movedOn hw hdone (by simp) (by simpa [StateAt, State.movedOn, hxtal] using hstate)
    ((valuesOk_divcalc rfl).2 ⟨htarget, fun _ => hpll, hcore, by simpa [State.movedOn, hxtal] using hroot⟩)
    (by simpa [PollOk, State.movedOn, hpc] using h.poll) ?_
  simp [State.sequenceTrace, State.movedOn, State.partDone, hpc, hdone, hcore, traceTail, traceStable, traceConfigured,
    hxtal]

/-! ### The dividers and the end -/

theorem sDivcalc_inSequence (h : InSequence s) (hpc : s.seq.pc = .divcalc) (hok : s.params.ok = true)
    (hh : s.port.halted = false) (hx : exec .sDivcalc s = .next t) (ht : t.port.halted = false) : InSequence t := by
  obtain ⟨hnouart, hnospi, hboth⟩ := stepDivcalc s hok hh
  obtain ⟨htarget, hpll, hroot⟩ := (valuesOk_divcalc hpc).1 h.values
  cases hu : divcheck s.seq.tgtHz s.cfg.tgtUart s.params.uartDivMax with
  | none =>
    cases (hnouart hu).symm.trans hx
    simp [fatalState] at ht
  | some u =>
    cases hv : divcheck s.seq.tgtHz s.cfg.tgtSpi s.params.spiDivMax with
    | none =>
      cases (hnospi u hu hv).symm.trans hx
      simp [fatalState] at ht
    | some v =>
      obtain ⟨hufits, hvfits, hlatched⟩ := hboth u v hu hv
      cases hlatched.symm.trans hx
      refine h.goesOn (events := []) (by simp [hpc]) (by simp) (h.unitFree (by rw [hpc]; rfl))
        (by simpa [StateAt, hpc] using h.state)
        ((valuesOk_divided rfl).2 ⟨htarget, hpll, hroot, ⟨?_, ?_⟩, by simp, by simp⟩)
        (by simpa [PollOk, hpc] using h.poll) ?_ (List.append_nil _).symm
      · simp only [hufits, hu]
      · simp only [hvfits, hv]
      · simp [State.sequenceTrace, hpc, traceTail, traceStable, traceConfigured]

theorem sUartdiv_inSequence (h : InSequence s) (hpc : s.seq.pc = .uartdiv) (hh : s.port.halted = false)
    (hx : exec .sUartdiv s = .next t) : InSequence t := by
  obtain ⟨htarget, hpll, hroot, hdiv, -⟩ := (valuesOk_divided (by rw [hpc]; rfl)).1 h.values
  cases (exec_sUartdiv hh).symm.trans hx
  refine h.goesOn (events := [.w .uartDiv s.seq.uartDivC.toNat]) (by simp [hpc]) (by simp)
    (h.unitFree (by rw [hpc]; rfl)) (by simpa [StateAt, hpc] using h.state)
    ((valuesOk_divided rfl).2 ⟨htarget, hpll, hroot, hdiv, fun _ => rfl, by simp⟩)
    (by simpa [PollOk, hpc] using h.poll) ?_
  simp [State.sequenceTrace, hpc, traceTail, traceStable, traceConfigured]

theorem sSpidiv_inSequence (h : InSequence s) (hpc : s.seq.pc = .spidiv) (hh : s.port.halted = false)
    (hx : exec .sSpidiv s = .next t) : InSequence t := by
  obtain ⟨htarget, hpll, hroot, hdiv, huart, -⟩ := (valuesOk_divided (by rw [hpc]; rfl)).1 h.values
  cases (exec_sSpidiv hh).symm.trans hx
  refine h.goesOn (events := [.w .spiDiv s.seq.spiDivC.toNat]) (by simp [hpc]) (by simp)
    (h.unitFree (by rw [hpc]; rfl)) (by simpa [StateAt, hpc] using h.state)
    ((valuesOk_divided rfl).2 ⟨htarget, hpll, hroot, hdiv, fun _ => huart (by simp [hpc]), fun _ => rfl⟩)
    (by simpa [PollOk, hpc] using h.poll) ?_
  simp [State.sequenceTrace, hpc, traceTail, traceStable, traceConfigured]

theorem sDone_inSequence (h : InSequence s) (hpc : s.seq.pc = .done) (hok : s.params.ok = true)
    (hh : s.port.halted = false) (hx : exec .sDone s = .next t) : InSequence t := by
  cases (stepDone s hh).symm.trans hx
  exact inSequence_of_idle rfl rfl (by simp) (Params.sysclkResetSel_isKey hok) (.inr (.inl rfl))
    (h.unitFree (by rw [hpc]; rfl))

/-! ### Every micro-step -/

/-- The micro-step `seq_pc` selects keeps the sequence where its rules put it. -/
theorem micro_inSequence {i : Instr} (h : InSequence s) (hd : decode (.micro s.seq.pc.code) = .ok i)
    (hok : s.params.ok = true) (hh : s.port.halted = false) (hx : exec i s = .next t) (ht : t.port.halted = false) :
    InSequence t := by
  cases hpc : s.seq.pc <;> rw [hpc] at hd <;> cases hd
  case safe => exact sSafe_inSequence h hpc hh hx
  case reach => exact sReach_inSequence h hpc hok hh hx ht
  case xtalOn => exact sXtalOn_inSequence h hpc hok hh hx
  case pollWait => exact sPollWait_inSequence h hpc hh hx
  case pollRead => exact sPollRead_inSequence h hpc hh hx
  case timeout => exact sTimeout_inSequence h hpc hok hh hx
  case pllLookup => exact sPllLookup_inSequence h hpc hh hx ht
  case pllFb => exact sPllFb_inSequence h hpc hh hx
  case pllCp => exact sPllCp_inSequence h hpc hh hx
  case pllPd => exact sPllPd_inSequence h hpc hh hx
  case puBias =>
    simp only [exec] at hx
    obtain ⟨-, hx⟩ := unlessHalted_next hx
    cases hx
    exact h.powersUp (by simp [hpc, powerUpSteps]) (by rw [hpc]; rfl) (by rw [hpc]; rfl) rfl (by rw [hpc]; rfl)
  case taps => exact sTaps_inSequence h hpc hok hh hx
  case pllsel => exact sPllsel_inSequence h hpc hok hh hx
  case tapsel => exact sTapsel_inSequence h hpc hok hh hx
  case busdiv => exact sBusdiv_inSequence h hpc hh hx ht
  case icache => exact sIcache_inSequence h hpc hh hx
  case switch => exact sSwitch_inSequence h hpc hh hx
  case shadow => exact sShadow_inSequence h hpc hh hx
  case settle => exact sSettle_inSequence h hpc hh hx
  case divcalc => exact sDivcalc_inSequence h hpc hok hh hx ht
  case uartdiv => exact sUartdiv_inSequence h hpc hh hx
  case spidiv => exact sSpidiv_inSequence h hpc hh hx
  case done => exact sDone_inSequence h hpc hok hh hx
  all_goals
    simp only [exec] at hx
    obtain ⟨-, hx⟩ := unlessHalted_next hx
    cases hx
    exact h.powersUp (by simp [hpc, powerUpSteps]) (by rw [hpc]; rfl) (by rw [hpc]; rfl)
      (by simpa [StateAt, hpc] using h.state) (by rw [hpc]; rfl)

end MicroSteps

end Sys2Proof.Machine
end

section
/-! The sequence invariant and the descriptor's truth over every step (42_clock_sequencer.md rule R204, rule R206), and
the two paths as wholes: the RC path run from FREEZE, the PLL path's trace at S_DONE. -/

namespace Sys2Proof.Machine

/-! ### The commands -/

/-- A word on the command port is a command of one of the two halves (30_encoding.md rule R102). -/
theorem agentOf_command {w : BitVec 40} {i : Instr} (h : decode (.command w) = .ok i) :
    agentOf i = .clockCommand ∨ agentOf i = .dispatcherCommand := by
  have henc : encode i = .command w := encode_of_decodeCommand h
  cases i <;> cases henc <;> simp [agentOf]

/-- While the sequencer is idle a clock command configures, reads, or starts the sequence at S_SAFE. -/
theorem clockCommand_inSequence {i : Instr} {s t : State} (hi : agentOf i = .clockCommand) (h : InSequence s)
    (hpc : s.seq.pc = .idle) (hx : exec i s = .next t) (ht : t.port.halted = false) : InSequence t := by
  have hfree : UnitFree s := h.unitFree (by rw [hpc]; rfl)
  have hconfigured : ∀ cfg : Builder, (s.params.sysclkEntry cfg.tgtSysclk).isSome = true →
      InSequence (({ s with cfg := cfg } : State).respond .ok 0#32) := fun cfg hkey =>
    inSequence_of_idle hpc (h.busy_of_idle hpc) h.frozen hkey (h.state_of_idle hpc) hfree
  have hread : ∀ d, InSequence (s.respond .ok d) := fun d => SameClockHalf.inSequence {} h
  cases i <;> simp only [agentOf, reduceCtorEq] at hi <;>
    simp only [exec, execCfgSysclk, execCfgUart, execCfgSpi, execCfgXtal, configure, execFreeze, execRdSysclk,
      execRdUart, execRdSpi, execRdPllen, execRdXtal, readClocks] at hx
  all_goals
    obtain ⟨-, ⟨c, -, rfl⟩ | ⟨-, hform, hpre, hx⟩⟩ := command_next hx
    · simp at ht
    cases hx
  case cfgSysclk => exact hconfigured _ (formatS_iff.1 hform).2
  case cfgUart | cfgSpi | cfgXtal => exact hconfigured _ h.key
  case rdSysclk | rdUart | rdSpi | rdPllen | rdXtal => exact hread _
  case freeze =>
    exact {
      busy := by simp
      frozen := h.frozen
      key := h.key
      state := tokenFree_iff.1 (needToken_none.1 hpre)
      wait := UnitFree.waitOk hfree
      values := valuesOk_of_idle_or_safe (.inr rfl)
      poll := trivial
      trace := ⟨s.trace.clk, (List.append_nil _).symm⟩ }

theorem dispatcherCommand_inSequence {i : Instr} {s t : State} (hi : agentOf i = .dispatcherCommand)
    (h : InSequence s) (hx : exec i s = .next t) : InSequence t := by
  obtain ⟨hparams, hcfg, hseq, hct, hclocks, hdu, hclk, -⟩ := dispatcherCommand_frame hi hx
  exact SameClockHalf.inSequence ⟨hparams, hcfg, hseq, hct, hclocks, by rw [hdu], by rw [hdu], by rw [hdu], by rw [hdu],
    hclk⟩ h

theorem command_inSequence {w : BitVec 40} {s t : State} (h : InSequence s) (hpc : s.seq.pc = .idle)
    (hx : runWord (.command w) s = .next t) (ht : t.port.halted = false) : InSequence t := by
  rcases runWord_next hx with ⟨i, hd, hx⟩ | ⟨op, -, rfl⟩
  · rcases agentOf_command hd with hi | hi
    · exact clockCommand_inSequence hi h hpc hx ht
    · exact dispatcherCommand_inSequence hi h hx
  · simp at ht

/-! ### The delay unit -/

/-- A standing request is the wait of the micro-step the sequencer holds at. -/
theorem delay_inSequence {w : BitVec 67} {i : Instr} {s t : State} (h : InSequence s) (hreq : s.du.req = some w)
    (hd : decode (.delay w) = .ok i) (hx : exec i s = .next t) : InSequence t := by
  cases hw : waitOf s.params s.seq.pc with
  | none =>
    obtain ⟨hnone, -⟩ := h.unitFree hw
    simp [hnone] at hreq
  | some us =>
    obtain rfl := h.request_eq hw hreq
    cases (decode_waitMicros us).symm.trans hd
    simp only [exec] at hx
    obtain ⟨-, hx⟩ := unlessHalted_next hx
    cases hx
    exact h.waitCycles hw (by simp [hreq])

/-! ### Every step -/

theorem Did.inSequence {s t : State} {es : List Event} (hdid : Did s es t) (h : InSequence s)
    (hok : s.params.ok = true) (hh : s.port.halted = false) (ht : t.port.halted = false) : InSequence t := by
  have hs : InSequence (s.withSched es) := SameClockHalf.inSequence {} h
  cases hdid with
  | tick => exact SameClockHalf.inSequence {} h
  | env e => exact SameClockHalf.inSequence {} h
  | raise n hn => exact SameClockHalf.inSequence {} h
  | trapFatal c hq => simp at ht
  | trap v hsched hq hv hu hp => exact SameClockHalf.inSequence {} h
  | delay w i _ hr hd hx => exact delay_inSequence hs hr hd hx
  | micro i _ hr hp hd hx => exact micro_inSequence hs hd hok hh hx ht
  | cmd w _ hr hp hc hx =>
    have hpresented : InSequence { s.withSched es with port := { s.port with cmd := some w } } :=
      SameClockHalf.inSequence {} h
    exact command_inSequence hpresented hp hx ht
  | deliver hr hp hc hd =>
    rcases deliver_cases (s.withSched es) with he | ⟨n, -, he⟩ <;> rw [he]
    · exact hs
    · exact SameClockHalf.inSequence {} h

/-- Settles O47, by everything a step can have done: at a micro-step that is the micro-step or its wait, else a command
of the idle sequencer, else nothing the invariant reads. -/
theorem sequenceOkKept : Obligations.SequenceOkKept := by
  intro s t hs hstep
  obtain ⟨hok, es, ⟨-, rfl⟩ | ⟨hh, hdid⟩⟩ := step_did hstep
  · exact sequenceOk_powerUp (Params.sysclkResetSel_isKey hok) _
  · exact sequenceOk_iff.2 fun ht => hdid.inSequence (sequenceOk_iff.1 hs hh) hok hh ht

/-! ### The descriptor -/

/-- Only S_DONE writes the descriptor. -/
theorem exec_clocks_eq {i : Instr} {s t : State} (h : exec i s = .next t) (hi : i ≠ .sDone) : t.clocks = s.clocks := by
  have hwriters := (exec_clockWrote h).clockTree
  obtain ⟨-, -, -, -, -, -, -, -, -, -, -, -, -, -, -, -, -, hclocks⟩ := hwriters
  exact not_not.1 (mt hclocks hi)

/-- S_DONE is fetched at its own code only. -/
theorem pc_of_sDone {pc : SeqPc} (h : decode (.micro pc.code) = .ok .sDone) : pc = .done := by
  cases pc
  case done => rfl
  all_goals cases h

/-- A step leaves the descriptor alone or is S_DONE. -/
theorem Did.clocks_cases {s t : State} {es : List Event} (h : Did s es t) :
    t.clocks = s.clocks ∨ (s.seq.pc = .done ∧ exec .sDone (s.withSched es) = .next t) := by
  by_cases hpc : s.seq.pc = .idle
  · exact .inl (h.clockTree_eq hpc).2
  cases h with
  | tick => exact .inl rfl
  | env e => exact .inl rfl
  | raise n hn => exact .inl rfl
  | trapFatal c hq => exact .inl rfl
  | trap v hs hq hv hd hp => exact .inl rfl
  | delay w i _ hr hd hx =>
    have hi : i ≠ .sDone := fun hi => agentOf_ne_sequencer hd nofun (hi ▸ rfl)
    have hkept := exec_clocks_eq hx hi
    exact .inl hkept
  | micro i _ hr hp hd hx =>
    by_cases hi : i = .sDone
    · subst hi
      exact .inr ⟨pc_of_sDone hd, hx⟩
    · have hkept := exec_clocks_eq hx hi
      exact .inl hkept
  | cmd w _ hr hp hc hx => exact absurd hp hpc
  | deliver hr hp hc hd => exact absurd hp hpc

/-- S_DONE describes the clock tree: the root clock is the crystal setting's, the dividers hold the exact divisors. -/
theorem sDone_descriptorTrue {s t : State} (h : InSequence s) (hpc : s.seq.pc = .done) (hok : s.params.ok = true)
    (hh : s.port.halted = false) (hx : exec .sDone s = .next t) : DescriptorTrue t := by
  obtain ⟨-, -, -, -, ⟨huartMax, -⟩, hspiMax, -⟩ := Params.clock_bounds hok
  obtain ⟨-, -, ⟨-, hroot⟩, ⟨hu, hv⟩, huart, hspi⟩ := (valuesOk_divided (by rw [hpc]; rfl)).1 h.values
  obtain ⟨-, -, huExact⟩ := divcheck_exact huartMax hu
  obtain ⟨-, -, hvExact⟩ := divcheck_exact hspiMax hv
  cases (stepDone s hh).symm.trans hx
  refine fun _ => ⟨hroot, ?_, ?_, rfl⟩
  · rw [huart (by simp [hpc])]; exact huExact
  · rw [hspi hpc]; exact hvExact

/-- Settles O48: a step in FROZEN writes no clock field; before FROZEN there is no descriptor, and S_DONE's is true. -/
theorem descriptorTrueKept : Obligations.DescriptorTrueKept := by
  intro s t hs htrue hstep
  obtain ⟨hok, es, ⟨-, rfl⟩ | ⟨hh, hdid⟩⟩ := step_did hstep
  · exact descriptorTrue_powerUp _ _
  have h : InSequence s := sequenceOk_iff.1 hs hh
  by_cases hpc : s.seq.pc = .idle
  · obtain ⟨hct, hclocks⟩ := hdid.clockTree_eq hpc
    unfold DescriptorTrue
    rw [hct, hclocks]
    exact htrue
  · rcases hdid.clocks_cases with hclocks | ⟨hdone, hx⟩
    · intro hv
      rw [hclocks, h.no_descriptor hpc] at hv
      cases hv
    · have hsched : InSequence (s.withSched es) := SameClockHalf.inSequence {} h
      exact sDone_descriptorTrue hsched hdone hok hh hx

/-! ### The PLL path's trace -/

/-- What every step keeps holds at the end of every run. -/
theorem run_invariant {P : State → Prop} (hP : ∀ s t, P s → step s = .next t → P t) (m : Nat) {s t : State}
    (hs : P s) (hrun : Host.Core.run Sys2Proof.core m s = .next t) : P t := by
  induction m generalizing s with
  | zero => cases hrun; exact hs
  | succ m ih =>
    simp only [Host.Core.run] at hrun
    split at hrun
    · exact ih (hP _ _ hs ‹_›) hrun
    · cases hrun
    · cases hrun

theorem pollRounds_eq_flatten (p : Params) (k : Nat) :
    pollRounds p k = (List.replicate k [.d (microsToCycles p.xtalPollUs p.fRcHz), .r false]).flatten := by
  induction k with
  | zero => rfl
  | succ k ih => rw [pollRounds, ih, List.replicate_succ', List.flatten_append]; rfl

/-- The frequency a divider check answers: the one asked for, or the source undivided (rule R198). -/
theorem divcheck_answer {src : Hz} {tgt : OptFreq} {max d : Nat} {hz : Hz} (h : divcheck src tgt max = some (d, hz)) :
    (tgt.valid = true → hz = tgt.hz) ∧ (tgt.valid = false → d = 1) := by
  refine ⟨fun hv => ?_, fun hv => ?_⟩
  · obtain ⟨-, -, -, hhz, -⟩ := (divcheck_eq_some hv).1 h
    exact hhz
  · cases (divcheck_absent hv).symm.trans h
    rfl

/-- Settles O60: the trace the invariant gives at S_DONE on the PLL path, written out. -/
theorem pllPathTrace : Obligations.PllPathTrace := by
  intro s t m hs hrun hh hpc hxtal hok
  have h : InSequence t := sequenceOk_iff.1 (run_invariant sequenceOkKept m hs hrun) hh
  have hok' : t.params.ok = true :=
    run_invariant (P := fun s => s.params.ok = true) (fun _ _ hp hx => step_params hx ▸ hp) m hok hrun
  obtain ⟨-, -, -, -, ⟨huartMax, -⟩, hspiMax, -⟩ := Params.clock_bounds hok'
  obtain ⟨⟨e, he, hhz, htap, -⟩, hpll, -, ⟨hu, hv⟩, -⟩ := (valuesOk_divided (by rw [hpc]; rfl)).1 h.values
  obtain ⟨pll, hentry, hlatch⟩ := hpll hxtal
  obtain ⟨hu1, huMax, huExact⟩ := divcheck_exact huartMax hu
  obtain ⟨hv1, hvMax, hvExact⟩ := divcheck_exact hspiMax hv
  obtain ⟨huHz, huOne⟩ := divcheck_answer hu
  obtain ⟨hvHz, hvOne⟩ := divcheck_answer hv
  obtain ⟨hk1, hkMax⟩ : 1 ≤ t.seq.pollCnt.toNat ∧ t.seq.pollCnt.toNat ≤ t.params.xtalPollMax.toNat := by
    simpa [PollOk, hpc, hxtal] using h.poll
  obtain ⟨before, hbefore⟩ := h.trace
  refine ⟨before, t.seq.pollCnt.toNat, e, t.seq.tgtTap, pll, t.seq.uartDivC.toNat, t.seq.spiDivC.toNat, hk1, hkMax, he,
    htap hxtal, hentry, huExact.trans (by rw [hhz]), hvExact.trans (by rw [hhz]), hu1, huMax, hv1, hvMax, huHz, huOne,
    hvHz, hvOne, ?_⟩
  simp only [hbefore, State.sequenceTrace, hpc, traceTail, hxtal, if_true, traceStable, traceConfigured, traceReady,
    traceXtalOn, tracePll, tracePowerUp, traceTaps, traceIcache, rcWait, pollRounds_eq_flatten, microsToCycles,
    busDivisor, hhz, hlatch, BitVec.lt_def, List.append_assoc, List.cons_append, List.nil_append]

/-! ### The RC path -/

/-- A micro-step the block makes when left alone, as a turn of a run. -/
theorem run_micro {s t : State} {i : Instr} {m : Nat} (hx : exec i s = .next t) (hok : s.params.ok = true)
    (hh : s.port.halted = false) (hs : s.env.sched = []) (hr : s.du.req = none)
    (hd : decode (.micro s.seq.pc.code) = .ok i := by rfl) :
    Host.Core.run Sys2Proof.core (m + 1) s = Host.Core.run Sys2Proof.core m t := by
  obtain ⟨hturn, -⟩ := stepRunsDecoded
  obtain ⟨-, hmicro, -⟩ := hturn s s hok hh (.inl ⟨hs, rfl⟩)
  exact run_succ ((hmicro i hr hd).trans hx) m

theorem exec_sReach_rc {s : State} {e : SysclkEntry} (hh : s.port.halted = false) (hxtal : s.cfg.xtal.valid = false)
    (he : s.params.sysclkEntry s.cfg.tgtSysclk = some e) (hrc : e.src = .rc) :
    exec .sReach s = .next { s with seq := { s.seq with tgtHz := e.hz, pc := .divcalc } } := by
  obtain ⟨hnext, -⟩ := stepReach s e hh he
  exact hnext hxtal hrc

theorem exec_sDivcalc_exact {s : State} {u v : Nat × Hz} (hok : s.params.ok = true) (hh : s.port.halted = false)
    (hu : divcheck s.seq.tgtHz s.cfg.tgtUart s.params.uartDivMax = some u)
    (hv : divcheck s.seq.tgtHz s.cfg.tgtSpi s.params.spiDivMax = some v) :
    exec .sDivcalc s = .next { s with seq :=
      { s.seq with
        uartDivC := BitVec.ofNat 8 u.1, uartHzC := u.2, spiDivC := BitVec.ofNat 8 v.1, spiHzC := v.2
        pc := .uartdiv } } := by
  obtain ⟨-, -, hboth⟩ := stepDivcalc s hok hh
  obtain ⟨-, -, hnext⟩ := hboth u v hu hv
  exact hnext

/-- The block at S_DIVCALC on the RC path, `hz` being the frequency latched. -/
def State.rcReached (s : State) (hz : Hz) : State :=
  { s with
    ct := { s.ct with rootSel := 0#1 }
    seq := { s.seq with
      busy := true, coreFreq := s.params.fRcHz, state := .safeDefault, tgtHz := hz, pc := .divcalc }
    trace := { s.trace with clk := s.trace.clk ++ [.w .rootSel 0] } }

/-- FREEZE, S_SAFE and S_REACH without a crystal. -/
theorem run_rcReached {s : State} {e : SysclkEntry} (m : Nat) (hok : s.params.ok = true) (hh : s.port.halted = false)
    (hs : s.env.sched = []) (hr : s.du.req = none) (hpc : s.seq.pc = .idle) (hcmd : s.port.cmd = some 0x0500000000#40)
    (hphase : s.itd.trapPhase ≠ .trapped) (htoken : s.seq.state = .unconfigured ∨ s.seq.state = .xtalTimeout)
    (hxtal : s.cfg.xtal.valid = false) (he : s.params.sysclkEntry s.cfg.tgtSysclk = some e) (hrc : e.src = .rc) :
    Host.Core.run Sys2Proof.core (m + 3) s = Host.Core.run Sys2Proof.core m (s.rcReached e.hz) := by
  obtain ⟨-, -, -, hfreeze⟩ := freezeStarts s 0#32 hh
  obtain ⟨hturn, -⟩ := stepRunsDecoded
  obtain ⟨-, -, hcommand⟩ := hturn s s hok hh (.inl ⟨hs, rfl⟩)
  have hdecode : decode (.command 0x0500000000#40) = .ok (.freeze 0#32) := decodeEncode (.freeze 0#32)
  have hstart := (hcommand _ _ hr hpc hcmd hdecode).trans (hfreeze hphase rfl htoken)
  calc Host.Core.run Sys2Proof.core (m + 3) s
      = Host.Core.run Sys2Proof.core (m + 2) _ := run_succ hstart (m + 2)
    _ = Host.Core.run Sys2Proof.core (m + 1) _ := run_micro (stepSafe _ hh) hok hh hs hr
    _ = Host.Core.run Sys2Proof.core m (s.rcReached e.hz) :=
      run_micro (exec_sReach_rc hh hxtal he hrc) hok hh hs hr

/-- The block at the end of a sequence: the divider registers written, the descriptor produced, the host released. -/
def State.dividersFrozen (s : State) (u v : Nat × Hz) : State :=
  { s with
    cfg := .fresh s.params
    ct := { s.ct with uartDiv := BitVec.ofNat 8 u.1, spiDiv := BitVec.ofNat 8 v.1 }
    seq := { s.seq with
      uartDivC := BitVec.ofNat 8 u.1, uartHzC := u.2, spiDivC := BitVec.ofNat 8 v.1, spiHzC := v.2
      state := .frozen, busy := false, pc := .idle }
    clocks := ⟨true, s.seq.tgtHz, u.2, v.2, s.cfg.xtal, s.cfg.xtal.valid⟩
    port := okPort s 0#32
    trace := { s.trace with
      clk := s.trace.clk ++ [.w .uartDiv (BitVec.ofNat 8 u.1).toNat] ++ [.w .spiDiv (BitVec.ofNat 8 v.1).toNat] } }

/-- S_DIVCALC with targets that divide, S_UARTDIV, S_SPIDIV and S_DONE. -/
theorem run_dividersFrozen {s : State} {u v : Nat × Hz} (m : Nat) (hok : s.params.ok = true)
    (hh : s.port.halted = false) (hs : s.env.sched = []) (hr : s.du.req = none) (hpc : s.seq.pc = .divcalc)
    (hu : divcheck s.seq.tgtHz s.cfg.tgtUart s.params.uartDivMax = some u)
    (hv : divcheck s.seq.tgtHz s.cfg.tgtSpi s.params.spiDivMax = some v) :
    Host.Core.run Sys2Proof.core (m + 4) s = Host.Core.run Sys2Proof.core m (s.dividersFrozen u v) := by
  calc Host.Core.run Sys2Proof.core (m + 4) s
      = Host.Core.run Sys2Proof.core (m + 3) _ :=
        run_micro (exec_sDivcalc_exact hok hh hu hv) hok hh hs hr (by rw [hpc]; rfl)
    _ = Host.Core.run Sys2Proof.core (m + 2) _ := run_micro (exec_sUartdiv hh) hok hh hs hr
    _ = Host.Core.run Sys2Proof.core (m + 1) _ := run_micro (exec_sSpidiv hh) hok hh hs hr
    _ = Host.Core.run Sys2Proof.core m (s.dividersFrozen u v) := run_micro (stepDone _ hh) hok hh hs hr

/-- Settles O59: three turns to S_DIVCALC, four from it. -/
theorem rcPathRuns : Obligations.RcPathRuns := by
  intro s e u v hok hh hs hr hpc hcmd hphase htoken hxtal he hrc hu hv
  obtain ⟨-, -, -, -, huartMax, hspiMax⟩ := Params.clock_bounds hok
  obtain ⟨hhz, -⟩ := Params.rc_entry hok (Params.mem_of_sysclkEntry he) hrc
  have hrun : Host.Core.run Sys2Proof.core 7 s = .next ((s.rcReached e.hz).dividersFrozen u v) :=
    (run_rcReached 4 hok hh hs hr hpc hcmd hphase htoken (by rw [hxtal]) he hrc).trans
      (run_dividersFrozen 0 hok hh hs hr rfl hu hv)
  refine ⟨_, hrun, rfl, rfl, rfl, rfl, hhz, ?_, rfl, ?_, rfl, rfl, rfl, rfl⟩
  · simp [State.dividersFrozen, State.rcReached, hxtal]
  · simp [State.dividersFrozen, State.rcReached, divcheck_fits huartMax hu, divcheck_fits hspiMax hv]

end Sys2Proof.Machine
end

section
/-! The interrupt identities: their two mapping functions are inverse to each other (43_interrupt_ops.md rule R221, rule
R222, rule R233), and the cause decoder goes by the low byte's identity (rule R228). -/

namespace Sys2Proof.Machine

/-! ### Identity to IRQ number and back -/

/-- The recognized identities in the order of 43_interrupt_ops.md rule R220. -/
def IrqId.all : List IrqId := [.gpio, .tch0, .tch1, .wdt]

theorem IrqId.mem_all (id : IrqId) : id ∈ IrqId.all := by cases id <;> decide

/-- The four IRQ numbers are distinct (00_scope.md rule R7 (c)). -/
theorem irqOf_injective {p : Params} (h : p.irqOk = true) {i j : IrqId} (hij : irqOf p i = irqOf p j) : i = j := by
  simp only [Params.irqOk, Bool.and_eq_true, decide_eq_true_eq] at h
  obtain ⟨⟨-, hnodup⟩, -⟩ := h
  have hmap : (IrqId.all.map (irqOf p)).Nodup := hnodup
  exact List.inj_on_of_nodup_map hmap (IrqId.mem_all i) (IrqId.mem_all j) hij

/-- There are at most 256 slots, so an IRQ number fits the low byte of a cause (00_scope.md rule R6). -/
theorem irqOf_lt_256 {p : Params} (h : p.ok = true) (id : IrqId) : irqOf p id < 256 := by
  obtain ⟨-, -, hspace, hirq⟩ := Params.ok_cases h
  obtain ⟨-, -, -, -, hwords, -⟩ := Params.spaceOk_cases hspace
  have hlt := irqOf_lt hirq id
  rw [Params.nslot] at hlt
  omega

/-- `id_of` searches the identities in their order for the IRQ number. -/
theorem idOf_eq_find (p : Params) (n : Byte) :
    idOf p n = IrqId.all.find? fun id => decide (n.toNat = irqOf p id) := by
  unfold idOf
  split_ifs with hgpio htch0 htch1 hwdt <;> simp_all [IrqId.all]

theorem idOf_eq_none_iff {p : Params} {n : Byte} : idOf p n = none ↔ ∀ id, n.toNat ≠ irqOf p id := by
  simp [idOf_eq_find, IrqId.mem_all]

/-- An IRQ number is found under its own identity, for no other has it. -/
theorem idOf_eq_some_iff {p : Params} (h : p.irqOk = true) {n : Byte} {id : IrqId} :
    idOf p n = some id ↔ n.toNat = irqOf p id := by
  have sound : ∀ j, idOf p n = some j → n.toNat = irqOf p j := fun j hj => by
    rw [idOf_eq_find] at hj
    simpa using List.find?_some hj
  refine ⟨sound id, fun hn => ?_⟩
  cases hj : idOf p n with
  | none => exact absurd hn (idOf_eq_none_iff.1 hj id)
  | some j => rw [irqOf_injective h ((sound j hj).symm.trans hn)]

/-! ### The cause decoder -/

theorem decodeCause_exception {p : Params} {c : Word} (hflag : c.getLsbD 31 = false) : decodeCause p c = .exc :=
  if_neg (Bool.eq_false_iff.1 hflag)

theorem decodeCause_identity {p : Params} {c : Word} {id : IrqId} (hflag : c.getLsbD 31 = true)
    (hid : idOf p (c.extractLsb' 0 8) = some id) : decodeCause p c = id.handler := by
  simp only [decodeCause, hflag, hid, if_true]

theorem decodeCause_unknown {p : Params} {c : Word} (hid : idOf p (c.extractLsb' 0 8) = none) :
    decodeCause p c = .exc := by
  simp only [decodeCause, hid, ite_self]

/-- Settles O39: what the low byte's identity is, read as a statement of IRQ numbers. -/
theorem decodeCauseFlagFirst : Obligations.DecodeCauseFlagFirst := by
  intro p c hok
  obtain ⟨-, -, -, hirq⟩ := Params.ok_cases hok
  refine ⟨decodeCause_exception, fun id hflag hn => ?_, fun _ hn => ?_, fun c' hflag hlow => ?_⟩
  · rw [decodeCause_identity hflag ((idOf_eq_some_iff hirq).2 hn)]
  · exact decodeCause_unknown (idOf_eq_none_iff.2 hn)
  · simp only [decodeCause, hflag, hlow]

end Sys2Proof.Machine
end

section
/-! The dispatcher's commands of one turn (43_interrupt_ops.md): the checks ENABLE, DISABLE and CLEAR share and the slot
each writes (rule R225 to rule R227), DISPATCH and TRET (rule R229, rule R231). -/

namespace Sys2Proof.Machine

/-! ### The checks of ENABLE, DISABLE and CLEAR -/

theorem exec_enable (arg : Word) (s : State) : exec (.enable arg) s
    = command s (contextPlain s.itd.trapPhase) (formatI arg) (needInstalledIrq s arg) fun s =>
        writeSlot s arg enAddr 0x01#32 activate := rfl

theorem exec_disable (arg : Word) (s : State) : exec (.disable arg) s
    = command s (contextPlain s.itd.trapPhase) (formatI arg) (needInstalledIrq s arg) fun s =>
        writeSlot s arg enAddr 0x00#32 id := rfl

theorem exec_clear (arg : Word) (s : State) : exec (.clear arg) s
    = command s (contextPlain s.itd.trapPhase) (formatI arg) (needInstalledIrq s arg) fun s =>
        writeSlot s arg pendAddr 0x00#32 id := rfl

/-- The operand of format I: an identity, UNKNOWN included, in the low byte (30_encoding.md rule R103). -/
theorem formatI_iff {arg : Word} : formatI arg = true ↔
    arg.extractLsb' 8 24 = 0#24 ∧ arg.extractLsb' 0 8 ∈ [0x00#8, 0x01#8, 0x02#8, 0x03#8, 0xFF#8] := by
  simp [formatI, identityByte, or_assoc]

theorem formatI_of_mem : ∀ arg ∈ [0x00#32, 0x01#32, 0x02#32, 0x03#32, 0xFF#32], formatI arg = true := by
  simp only [List.forall_mem_cons]
  exact ⟨rfl, rfl, rfl, rfl, rfl, nofun⟩

section SlotCommand

variable {i : Instr} {arg : Word} {s : State}

/-- The three commands are one command but for the slot they write. -/
theorem exec_slotCommand (hi : i ∈ [Instr.enable arg, .disable arg, .clear arg]) (s : State) : ∃ body,
    exec i s = command s (contextPlain s.itd.trapPhase) (formatI arg) (needInstalledIrq s arg) body := by
  simp only [List.mem_cons, List.not_mem_nil, or_false] at hi
  obtain rfl | rfl | rfl := hi
  · exact ⟨_, exec_enable arg s⟩
  · exact ⟨_, exec_disable arg s⟩
  · exact ⟨_, exec_clear arg s⟩

theorem slotCommand_badContext (hi : i ∈ [Instr.enable arg, .disable arg, .clear arg]) (hh : s.port.halted = false)
    (hc : s.itd.trapPhase = .trapped) : Raises i s .badContext := by
  obtain ⟨body, hx⟩ := exec_slotCommand hi s
  exact hx.trans (command_plain_badContext hh hc)

theorem slotCommand_field (hi : i ∈ [Instr.enable arg, .disable arg, .clear arg]) (hh : s.port.halted = false)
    (hc : s.itd.trapPhase ≠ .trapped) (hf : ¬ formatI arg = true) : Raises i s .field := by
  obtain ⟨body, hx⟩ := exec_slotCommand hi s
  exact hx.trans (command_plain_field hh hc hf)

theorem slotCommand_notInstalled (hi : i ∈ [Instr.enable arg, .disable arg, .clear arg])
    (hh : s.port.halted = false) (hc : s.itd.trapPhase ≠ .trapped) (hf : formatI arg = true)
    (hd : s.itd.dispState = .uninstalled) : Raises i s .notInstalled := by
  obtain ⟨body, hx⟩ := exec_slotCommand hi s
  exact hx.trans (command_plain_pre hh hc hf (if_pos hd))

/-- UNKNOWN is an operand of format I with no IRQ number (43_interrupt_ops.md rule R233). -/
theorem slotCommand_unknownIrq (hi : i ∈ [Instr.enable 0xFF#32, .disable 0xFF#32, .clear 0xFF#32])
    (hh : s.port.halted = false) (hc : s.itd.trapPhase ≠ .trapped) (hd : s.itd.dispState ≠ .uninstalled) :
    Raises i s .unknownIrq := by
  obtain ⟨body, hx⟩ := exec_slotCommand hi s
  exact hx.trans (command_plain_pre hh hc (by decide) (if_neg hd))

end SlotCommand

/-- Settles O43: an IRQ number fits the byte, and the search finds it under its identity only. -/
theorem identityBijection : Obligations.IdentityBijection := by
  intro p hok
  obtain ⟨-, -, -, hirq⟩ := Params.ok_cases hok
  refine ⟨fun id => ⟨irqOf_lt_256 hok id, ?_⟩, fun n hn => ?_, fun s hh hc hd i hi => ?_⟩
  · rw [idOf_eq_some_iff hirq, BitVec.toNat_ofNat]
    exact Nat.mod_eq_of_lt (irqOf_lt_256 hok id)
  · exact idOf_eq_none_iff.2 fun id => (hn id).symm
  · exact slotCommand_unknownIrq hi hh hc hd

/-! ### The slot commands past their checks -/

/-- The operand of each recognized identity (43_interrupt_ops.md rule R220). -/
def irqOperands : List (Word × IrqId) := [(0#32, .gpio), (1#32, .tch0), (2#32, .tch1), (3#32, .wdt)]

theorem identityOf_operand : ∀ c ∈ irqOperands, formatI c.1 = true ∧ identityOf (idByteOf c.1) = some c.2 := by
  decide

/-- A slot command with the operand of a recognized identity writes its slot. -/
theorem slotCommand_accepted {s : State} {c : Word × IrqId} {body : State → Result} (hmem : c ∈ irqOperands)
    (hh : s.port.halted = false) (hc : s.itd.trapPhase ≠ .trapped) (hd : s.itd.dispState ≠ .uninstalled) :
    command s (contextPlain s.itd.trapPhase) (formatI c.1) (needInstalledIrq s c.1) body = body s := by
  obtain ⟨hf, hid⟩ := identityOf_operand c hmem
  exact command_plain_accepted hh hc hf (needInstalledIrq_none.2 ⟨hd, by rw [hid]; rfl⟩)

/-- What ENABLE does to the dispatcher's state (43_interrupt_ops.md rule R225). -/
theorem activate_eq (s : State) : activate s = { s with itd := { s.itd with
    dispState := if s.itd.dispState = .vectorInstalled then .active else s.itd.dispState } } := by
  unfold activate
  split <;> rfl

/-- A slot write whose slot exists: the one byte, the trace, the response, and the dispatcher's state as `after` says
(20_memory.md rule R76, 43_interrupt_ops.md rule R225 to rule R227). -/
theorem writesSlot_of_writeSlot {i : Instr} {s : State} {arg v : Word} {addr : Params → Nat → Addr}
    {after : State → State} {id : IrqId} {ds : DispState} (hx : exec i s = writeSlot s arg addr v after)
    (hid : identityOf (idByteOf arg) = some id) (hwf : Memory.wf s.mem = true)
    (hslot : isSlot s.params (addr s.params (irqOf s.params id)).toNat = true)
    (ha : ∀ u, u.itd = s.itd → after u = { u with itd := { u.itd with dispState := ds } }) :
    WritesSlot i s (addr s.params (irqOf s.params id)) (slotByte (v.getLsbD 0)) v ds := by
  obtain ⟨u, hu⟩ := exists_memWrite_byte v hslot
  have hnext : exec i s = .next ((after u).respond .ok 0#32) := by simp only [hx, writeSlot, hid, hu]
  obtain ⟨-, -, -, -, -, -, hitd, -⟩ := memWrite_frame hu
  rw [ha u hitd] at hnext
  obtain ⟨-, -, rfl⟩ | ⟨h4, -⟩ := memWrite_cases hu
  · exact ⟨_, hnext, Memory.read_write_same _ _ _ hwf, fun x hne => Memory.read_write_other _ _ _ _ hne, rfl⟩
  · exact absurd h4 (by decide)

/-- Settles O6. -/
theorem enableSlot : Obligations.EnableSlot := by
  intro s arg hok hh hwf
  obtain ⟨-, -, hspace, hirq⟩ := Params.ok_cases hok
  have hi : Instr.enable arg ∈ [Instr.enable arg, .disable arg, .clear arg] := by simp
  refine ⟨slotCommand_badContext hi hh, fun hc hf => ?_, fun hc harg hd => ?_, ?_, ?_⟩
  · exact slotCommand_field hi hh hc (mt formatI_iff.1 hf)
  · exact slotCommand_notInstalled hi hh hc (formatI_of_mem arg harg) hd
  · rintro hc rfl hd
    exact slotCommand_unknownIrq hi hh hc hd
  · rintro c hmem hc rfl hd
    have hx := (exec_enable c.1 s).trans (slotCommand_accepted hmem hh hc hd)
    refine writesSlot_of_writeSlot hx (identityOf_operand c hmem).2 hwf (isSlot_enAddr hspace (irqOf_lt hirq c.2)) ?_
    intro u hu
    rw [activate_eq, hu]

/-- Settles O7. -/
theorem disableAndClearSlot : Obligations.DisableAndClearSlot := by
  intro s arg hok hh hwf
  obtain ⟨-, -, hspace, hirq⟩ := Params.ok_cases hok
  refine ⟨fun i hmem => ?_, ?_⟩
  · have hi : i ∈ [Instr.enable arg, .disable arg, .clear arg] := List.mem_cons_of_mem _ hmem
    refine ⟨slotCommand_badContext hi hh, fun hc hf => ?_, fun hc harg hd => ?_, ?_⟩
    · exact slotCommand_field hi hh hc (mt formatI_iff.1 hf)
    · exact slotCommand_notInstalled hi hh hc (formatI_of_mem arg harg) hd
    · rintro hc rfl hd
      exact slotCommand_unknownIrq hi hh hc hd
  · rintro c hmem hc rfl hd
    obtain ⟨-, hid⟩ := identityOf_operand c hmem
    have kept : ∀ u : State, u.itd = s.itd → id u = { u with itd := { u.itd with dispState := s.itd.dispState } } :=
      fun u hu => by rw [← hu]; rfl
    have hdisable := (exec_disable c.1 s).trans (slotCommand_accepted hmem hh hc hd)
    have hclear := (exec_clear c.1 s).trans (slotCommand_accepted hmem hh hc hd)
    exact ⟨writesSlot_of_writeSlot hdisable hid hwf (isSlot_enAddr hspace (irqOf_lt hirq c.2)) kept,
      writesSlot_of_writeSlot hclear hid hwf (isSlot_pendAddr hspace (irqOf_lt hirq c.2)) kept⟩

/-! ### DISPATCH and TRET -/

theorem exec_dispatch (arg : Word) (s : State) : exec (.dispatch arg) s
    = command s (contextDispatch s.itd.trapPhase) true none fun s => .next { s with
        itd := { s.itd with
          handlerSel := (decodeCause s.params s.itd.cause).oneHot, handlerFrame := arg, trapPhase := .inHandler }
        trace := { s.trace with call := s.trace.call ++ [(decodeCause s.params s.itd.cause, arg)] }
        port := okPort s 0#32 } := rfl

theorem exec_tret (arg : Word) (s : State) : exec (.tret arg) s
    = command s (contextTret s.itd.trapPhase) (formatZ arg) none fun s => .next { s with
        itd := { s.itd with trapPhase := .idle, handlerSel := 0#5, handlerFrame := 0#32 }
        port := okPort s 0#32 } := rfl

theorem contextDispatch_iff {ph : TrapPhase} : contextDispatch ph = true ↔ ph = .trapped := beq_iff_eq

theorem contextTret_iff {ph : TrapPhase} : contextTret ph = true ↔ ph = .inHandler := beq_iff_eq

/-- Settles O8: DISPATCH has the context check only. -/
theorem dispatchSelects : Obligations.DispatchSelects := by
  intro s arg hh
  simp only [Raises, exec_dispatch]
  refine ⟨fun hc => ?_, fun hc => ?_⟩
  · exact command_rejected _ _ _ _ _ _ hh (by simp [firstFailure, contextDispatch_iff, hc])
  · exact command_accepted _ _ _ _ _ hh (contextDispatch_iff.2 hc) rfl rfl

/-- Settles O9: TRET has the context check and the operand's. -/
theorem tretReturns : Obligations.TretReturns := by
  intro s arg hh
  simp only [Raises, exec_tret]
  refine ⟨fun hc => ?_, fun hc h0 => ?_, fun hc h0 => ?_⟩
  · exact command_rejected _ _ _ _ _ _ hh (by simp [firstFailure, contextTret_iff, hc])
  · exact command_rejected _ _ _ _ _ _ hh (by simp [firstFailure, contextTret_iff.2 hc, formatZ_iff, h0])
  · exact command_accepted _ _ _ _ _ hh (contextTret_iff.2 hc) (formatZ_iff.2 h0) rfl

end Sys2Proof.Machine
end

section
/-! INSTALL (43_interrupt_ops.md rule R223, rule R224): each of its turns, and the run of them all when the block is
left alone. A sweep is followed by the memory it leaves, which is a function of the words cleared so far. -/

namespace Sys2Proof.Machine

/-! ### One turn -/

section InstallTurn

variable {s : State} {arg : Word}

theorem needUninstalled_none (h : s.itd.dispState = .uninstalled) : needUninstalled s = none := if_pos h

theorem exec_install_begins (hh : s.port.halted = false) (hn : s.itd.install = none)
    (hc : s.itd.trapPhase ≠ .trapped) (hd : s.itd.dispState = .uninstalled) : exec (.install arg) s
    = .next { s with itd := { s.itd with globalIe := false, install := some .vector } } :=
  (execInstall_of_none arg hn).trans (command_plain_accepted hh hc rfl (needUninstalled_none hd))

theorem exec_install_vector (hh : s.port.halted = false) (hn : s.itd.install = some .vector) : exec (.install arg) s
    = .next { s with itd := { s.itd with tvec := arg, install := some (.enWord 0) } } := by
  rw [exec, execInstall, hn]
  exact unlessHalted_of _ _ hh

theorem exec_install_enWord {w : Nat} (hh : s.port.halted = false) (hn : s.itd.install = some (.enWord w)) :
    exec (.install arg) s = clearWord s (s.params.ctrlBase + s.params.enOff) w (afterEnWord s.params w) := by
  rw [exec, execInstall, hn]
  exact unlessHalted_of _ _ hh

theorem exec_install_pendWord {w : Nat} (hh : s.port.halted = false) (hn : s.itd.install = some (.pendWord w)) :
    exec (.install arg) s = clearWord s (s.params.ctrlBase + s.params.pendOff) w (afterPendWord s.params w) := by
  rw [exec, execInstall, hn]
  exact unlessHalted_of _ _ hh

theorem exec_install_finish (hh : s.port.halted = false) (hn : s.itd.install = some .finish) : exec (.install arg) s
    = .next { s with
        itd := { s.itd with globalIe := true, dispState := .vectorInstalled, install := none }
        port := okPort s 0#32 } := by
  rw [exec, execInstall, hn]
  exact unlessHalted_of _ _ hh

/-- A word of a sweep that exists: its four cells cleared, the trace, the next micro-step. -/
theorem clearWord_of_isSlotWord {base : Addr} {w : Nat} (nx : InstallStep)
    (h : isSlotWord s.params (base + BitVec.ofNat 32 (4 * w)).toNat = true) : clearWord s base w nx = .next { s with
      mem := writeWordCells s.mem (base + BitVec.ofNat 32 (4 * w)).toNat 0#32
      itd := { s.itd with install := some nx }
      trace := { s.trace with mem := s.trace.mem ++ [⟨base + BitVec.ofNat 32 (4 * w), 4, 0#32⟩] } } := by
  have hwrite : s.memWrite (base + BitVec.ofNat 32 (4 * w)) 4 0#32
      = some (({ s with mem := writeWordCells s.mem (base + BitVec.ofNat 32 (4 * w)).toNat 0#32 } : State).memEvent
          ⟨base + BitVec.ofNat 32 (4 * w), 4, 0#32⟩) := if_pos h
  rw [clearWord, hwrite]
  rfl

theorem clearsWord_of_clearWord {i : Instr} {base : Addr} {w : Nat} {nx : InstallStep}
    (hx : exec i s = clearWord s base w nx) (hwf : Memory.wf s.mem = true)
    (h : isSlotWord s.params (base + BitVec.ofNat 32 (4 * w)).toNat = true) :
    ClearsWord i s (base + BitVec.ofNat 32 (4 * w)) nx := by
  refine ⟨_, hx.trans (clearWord_of_isSlotWord nx h), fun k hk => ?_, fun x hout => ?_, rfl⟩
  · rw [writeWordCells_read_same _ _ _ hwf hk, BitVec.getLsbD_zero]
    rfl
  · exact writeWordCells_read_other _ _ _ _ hout

end InstallTurn

/-- Settles O5: one turn's lemma for each of the micro-steps. -/
theorem installMicroSteps : Obligations.InstallMicroSteps := by
  intro s arg hok hh hwf
  obtain ⟨-, -, hspace, -⟩ := Params.ok_cases hok
  refine ⟨fun hn hc => ?_, fun hn hc hd => ?_, exec_install_begins hh, exec_install_vector hh, fun w hw hn => ?_,
    fun w hw hn => ?_, exec_install_finish hh⟩
  · exact (execInstall_of_none arg hn).trans (command_plain_badContext hh hc)
  · exact (execInstall_of_none arg hn).trans (command_plain_pre hh hc rfl (if_neg hd))
  · exact clearsWord_of_clearWord (exec_install_enWord hh hn) hwf (isSlotWord_enWord hspace hw)
  · exact clearsWord_of_clearWord (exec_install_pendWord hh hn) hwf (isSlotWord_pendWord hspace hw)

/-! ### The memory a sweep leaves -/

theorem writeWordCells_zero_read {m : List Host.Cell} {a x : Nat} (hwf : Memory.wf m = true) :
    Memory.read (writeWordCells m a 0#32) x = if a ≤ x ∧ x < a + 4 then 0#8 else Memory.read m x := by
  split
  · obtain ⟨k, rfl⟩ : ∃ k, x = a + k := ⟨x - a, by omega⟩
    rw [writeWordCells_read_same _ _ _ hwf (by omega), BitVec.getLsbD_zero]
    rfl
  · exact writeWordCells_read_other _ _ _ _ (by omega)

/-- The cells with the first `k` words from `base` on cleared, in the order of the sweep (rule R224 I3, I4). -/
def sweptCells (m : List Host.Cell) (base : Addr) : Nat → List Host.Cell
  | 0 => m
  | k + 1 => writeWordCells (sweptCells m base k) (base + BitVec.ofNat 32 (4 * k)).toNat 0#32

/-- The word writes of a sweep's first `k` words. -/
def sweepEvents (base : Addr) (k : Nat) : List MemEvent :=
  (List.range k).map fun w => ⟨base + BitVec.ofNat 32 (4 * w), 4, 0#32⟩

theorem sweepEvents_succ (base : Addr) (k : Nat) :
    sweepEvents base (k + 1) = sweepEvents base k ++ [⟨base + BitVec.ofNat 32 (4 * k), 4, 0#32⟩] := by
  simp [sweepEvents, List.range_succ]

theorem sweptCells_wf {m : List Host.Cell} (hwf : Memory.wf m = true) (base : Addr) (k : Nat) :
    Memory.wf (sweptCells m base k) = true := by
  induction k with
  | zero => exact hwf
  | succ k ih => exact writeWordCells_wf _ _ _ ih

/-- A sweep clears its region and nothing else, where its addresses do not wrap. -/
theorem sweptCells_read {m : List Host.Cell} {base : Addr} {a k : Nat} (hwf : Memory.wf m = true)
    (haddr : ∀ w, w < k → (base + BitVec.ofNat 32 (4 * w)).toNat = a + 4 * w) (x : Nat) :
    Memory.read (sweptCells m base k) x = if a ≤ x ∧ x < a + 4 * k then 0#8 else Memory.read m x := by
  induction k with
  | zero => simp only [sweptCells]; rw [if_neg (by omega)]
  | succ k ih =>
    rw [sweptCells, writeWordCells_zero_read (sweptCells_wf hwf base k), haddr k (by omega),
      ih fun w hw => haddr w (by omega), ← ite_or]
    exact if_congr (by omega) rfl rfl

/-! ### The run -/

/-- An INSTALL in progress in a block left alone: its word stands on the port and no other agent has a turn. -/
structure InstallHeld (arg : Word) (s : State) : Prop where
  ok : s.params.ok = true
  running : s.port.halted = false
  alone : s.env.sched = []
  noRequest : s.du.req = none
  idle : s.seq.pc = .idle
  word : s.port.cmd = some (0x10#8 ++ arg)

theorem run_install {arg : Word} {s t : State} {m : Nat} (h : InstallHeld arg s)
    (hx : exec (.install arg) s = .next t) :
    Host.Core.run Sys2Proof.core (m + 1) s = Host.Core.run Sys2Proof.core m t := by
  obtain ⟨hturn, -⟩ := stepRunsDecoded
  obtain ⟨-, -, hcommand⟩ := hturn s s h.ok h.running (.inl ⟨h.alone, rfl⟩)
  exact run_succ ((hcommand _ _ h.noRequest h.idle h.word (decodeEncode (.install arg))).trans hx) m

/-- The state of an INSTALL with the first `k` words from `base` on cleared, its next micro-step `nx`. -/
def State.swept (s : State) (base : Addr) (k : Nat) (nx : InstallStep) : State :=
  { s with
    mem := sweptCells s.mem base k
    itd := { s.itd with install := some nx }
    trace := { s.trace with mem := s.trace.mem ++ sweepEvents base k } }

@[simp] theorem State.swept_params (s : State) (base : Addr) (k : Nat) (nx : InstallStep) :
    (s.swept base k nx).params = s.params := rfl

@[simp] theorem State.swept_mem (s : State) (base : Addr) (k : Nat) (nx : InstallStep) :
    (s.swept base k nx).mem = sweptCells s.mem base k := rfl

theorem State.swept_zero {s : State} {base : Addr} {nx : InstallStep} (h : s.itd.install = some nx) :
    s.swept base 0 nx = s := by
  simp [State.swept, sweptCells, sweepEvents, ← h]

theorem InstallHeld.swept {arg : Word} {s : State} (h : InstallHeld arg s) (base : Addr) (k : Nat)
    (nx : InstallStep) : InstallHeld arg (s.swept base k nx) := { h with }

/-- The micro-step of a sweep with `w` words cleared: the next word, or what follows the sweep. -/
def sweepNext (p : Params) (word : Nat → InstallStep) (last : InstallStep) (w : Nat) : InstallStep :=
  if w < p.bitmapWords then word w else last

/-- A sweep, a word a turn: one argument for the enable region and the pending region. -/
theorem run_sweep {arg : Word} {s : State} {base : Addr} {word : Nat → InstallStep} {last : InstallStep}
    (h : InstallHeld arg s) (hstart : s.itd.install = some (sweepNext s.params word last 0))
    (hslots : ∀ w, w < s.params.bitmapWords →
      isSlotWord s.params (base + BitVec.ofNat 32 (4 * w)).toNat = true)
    (hclear : ∀ w, exec (.install arg) (s.swept base w (word w))
      = clearWord (s.swept base w (word w)) base w (sweepNext s.params word last (w + 1)))
    (m k : Nat) (hk : k ≤ s.params.bitmapWords) :
    Host.Core.run Sys2Proof.core (m + k) s
      = Host.Core.run Sys2Proof.core m (s.swept base k (sweepNext s.params word last k)) := by
  induction k generalizing m with
  | zero => rw [State.swept_zero hstart, Nat.add_zero]
  | succ k ih =>
    have hlt : k < s.params.bitmapWords := hk
    have hturn : exec (.install arg) (s.swept base k (word k))
        = .next (s.swept base (k + 1) (sweepNext s.params word last (k + 1))) := by
      have hslot : isSlotWord (s.swept base k (word k)).params (base + BitVec.ofNat 32 (4 * k)).toNat = true :=
        hslots k hlt
      rw [hclear k, clearWord_of_isSlotWord _ hslot]
      simp only [State.swept, sweepEvents_succ, List.append_assoc]
      rfl
    calc Host.Core.run Sys2Proof.core (m + (k + 1)) s
        = Host.Core.run Sys2Proof.core (m + 1 + k) s := by rw [Nat.add_assoc, Nat.add_comm 1 k]
      _ = Host.Core.run Sys2Proof.core (m + 1) (s.swept base k (word k)) := by
        rw [ih (m + 1) hlt.le, sweepNext, if_pos hlt]
      _ = _ := run_install (h.swept base k (word k)) hturn

/-- The state of an INSTALL before its sweeps: the checks, I1 and I2 are done. -/
def State.vectorSet (s : State) (arg : Word) : State :=
  { s with itd := { s.itd with globalIe := false, tvec := arg, install := some (.enWord 0) } }

/-- The state of an INSTALL after its sweeps, with I5 to come. -/
def State.regionsSwept (s : State) : State :=
  (s.swept (s.params.ctrlBase + s.params.enOff) s.params.bitmapWords (.pendWord 0)).swept
    (s.params.ctrlBase + s.params.pendOff) s.params.bitmapWords .finish

theorem run_vectorSet {arg : Word} {s : State} (h : InstallHeld arg s) (m : Nat) (hn : s.itd.install = none)
    (hc : s.itd.trapPhase ≠ .trapped) (hd : s.itd.dispState = .uninstalled) :
    Host.Core.run Sys2Proof.core (m + 2) s = Host.Core.run Sys2Proof.core m (s.vectorSet arg) :=
  (run_install h (exec_install_begins h.running hn hc hd)).trans
    (run_install { h with } (exec_install_vector h.running rfl))

/-- The two sweeps, one word of each region a turn. -/
theorem run_regionsSwept {arg : Word} {s : State} (h : InstallHeld arg s) (m : Nat)
    (hn : s.itd.install = some (.enWord 0)) :
    Host.Core.run Sys2Proof.core (m + s.params.bitmapWords + s.params.bitmapWords) s
      = Host.Core.run Sys2Proof.core m s.regionsSwept := by
  obtain ⟨-, -, hspace, -⟩ := Params.ok_cases h.ok
  obtain ⟨-, -, -, hpos, -⟩ := Params.spaceOk_cases hspace
  have hfirst (word : Nat → InstallStep) (last : InstallStep) : sweepNext s.params word last 0 = word 0 := if_pos hpos
  have hlast (word : Nat → InstallStep) (last : InstallStep) :
      sweepNext s.params word last s.params.bitmapWords = last := if_neg (Nat.lt_irrefl _)
  have henable := run_sweep (word := .enWord) (last := .pendWord 0) h (by rw [hfirst, hn])
    (fun _ hw => isSlotWord_enWord hspace hw) (fun _ => exec_install_enWord h.running rfl)
    (m + s.params.bitmapWords) s.params.bitmapWords le_rfl
  have hheld := h.swept (s.params.ctrlBase + s.params.enOff) s.params.bitmapWords (.pendWord 0)
  have hpending := run_sweep (word := .pendWord) (last := .finish) hheld (congrArg some (hfirst _ _).symm)
    (fun _ hw => isSlotWord_pendWord hspace hw) (fun _ => exec_install_pendWord h.running rfl)
    m s.params.bitmapWords le_rfl
  rw [hlast] at henable
  rw [State.swept_params, hlast] at hpending
  exact henable.trans hpending

/-- The memory after both sweeps: every slot 0, every other byte as before (10_state.md rule R50). -/
theorem regionsSwept_read {s : State} (hok : s.params.ok = true) (hwf : Memory.wf s.mem = true) (x : Nat) :
    Memory.read s.regionsSwept.mem x = if isSlot s.params x then 0#8 else Memory.read s.mem x := by
  obtain ⟨-, -, hspace, -⟩ := Params.ok_cases hok
  rw [State.regionsSwept, State.swept_mem, State.swept_mem,
    sweptCells_read (sweptCells_wf hwf _ _) fun w hw => pendWordAddr_toNat hspace hw,
    sweptCells_read hwf fun w hw => enWordAddr_toNat hspace hw, ← ite_or]
  refine if_congr ?_ rfl rfl
  rw [isSlot, Bool.or_eq_true, inEnable_iff, inPending_iff, Params.nslot, or_comm]

/-- The state a whole INSTALL leaves. -/
def State.installed (s : State) (arg : Word) : State :=
  { (s.vectorSet arg).regionsSwept with
    itd := { s.itd with tvec := arg, globalIe := true, dispState := .vectorInstalled, install := none }
    port := okPort s 0#32 }

theorem run_installed {arg : Word} {s : State} (h : InstallHeld arg s) (hn : s.itd.install = none)
    (hc : s.itd.trapPhase ≠ .trapped) (hd : s.itd.dispState = .uninstalled) :
    Host.Core.run Sys2Proof.core (2 * s.params.bitmapWords + 3) s = .next (s.installed arg) := by
  have hset : InstallHeld arg (s.vectorSet arg) := { h with }
  have hswept : InstallHeld arg (s.vectorSet arg).regionsSwept := { h with }
  have hturns : 2 * s.params.bitmapWords + 3 = 1 + s.params.bitmapWords + s.params.bitmapWords + 2 := by omega
  calc Host.Core.run Sys2Proof.core (2 * s.params.bitmapWords + 3) s
      = Host.Core.run Sys2Proof.core (1 + s.params.bitmapWords + s.params.bitmapWords) (s.vectorSet arg) := by
        rw [hturns, run_vectorSet h _ hn hc hd]
    _ = Host.Core.run Sys2Proof.core 1 (s.vectorSet arg).regionsSwept := run_regionsSwept hset 1 rfl
    _ = .next (s.installed arg) := run_install (m := 0) hswept (exec_install_finish h.running rfl)

/-- Settles O58: two turns to the sweeps, a turn a word, and I5. -/
theorem installRuns : Obligations.InstallRuns := by
  intro s arg hok hwf hh hs hr hpc hcmd hn hd hc
  obtain ⟨-, -, hspace, -⟩ := Params.ok_cases hok
  have hread := regionsSwept_read (s := s.vectorSet arg) hok hwf
  refine ⟨_, run_installed ⟨hok, hh, hs, hr, hpc, hcmd⟩ hn hc hd, rfl, rfl, fun n hlt => ⟨?_, ?_⟩, fun x hx => ?_,
    rfl, rfl, rfl, rfl, rfl, rfl, rfl, rfl⟩
  · have hzero := (hread (enAddr s.params n).toNat).trans (if_pos (isSlot_enAddr hspace hlt))
    exact congrArg (·.getLsbD 0) hzero
  · have hzero := (hread (pendAddr s.params n).toNat).trans (if_pos (isSlot_pendAddr hspace hlt))
    exact congrArg (·.getLsbD 0) hzero
  · exact (hread x).trans (if_neg (Bool.eq_false_iff.1 hx))

end Sys2Proof.Machine
end

section
/-! The enable bits (60_exceptions.md rule R261): INSTALL disables the slots in the order of its sweep, and from then on
only ENABLE sets an enable bit, that of a recognized source; hence what `EnableBitsOk` says is kept by every step. -/

namespace Sys2Proof.Machine

/-! ### What is said of the enable bits at each micro-step of INSTALL -/

section MicroStep

variable {s : State} {w : Nat}

theorem enableBitsOk_of_vector (hn : s.itd.install = some .vector) : EnableBitsOk s := by
  unfold EnableBitsOk
  rw [hn]
  trivial

theorem enableBitsOk_enWord_iff (hn : s.itd.install = some (.enWord w)) :
    EnableBitsOk s ↔ w < s.params.bitmapWords ∧ enabledFrom s (4 * w) := by
  rw [EnableBitsOk, hn]

theorem enableBitsOk_pendWord_iff (hn : s.itd.install = some (.pendWord w)) :
    EnableBitsOk s ↔ w < s.params.bitmapWords ∧ enabledFrom s s.params.nslot := by
  rw [EnableBitsOk, hn]

theorem enableBitsOk_finish_iff (hn : s.itd.install = some .finish) :
    EnableBitsOk s ↔ enabledFrom s s.params.nslot := by
  rw [EnableBitsOk, hn]

theorem enableBitsOk_none_iff (hn : s.itd.install = none) : EnableBitsOk s ↔
    (s.itd.dispState ≠ .uninstalled → ∀ n, n < s.params.nslot → s.en n = true → recognizedSlot s.params n) := by
  rw [EnableBitsOk, hn]

end MicroStep

/-! ### What INSTALL has swept -/

theorem enabledFrom.mono {s t : State} {m : Nat} (h : enabledFrom s m) (hm : m ≤ s.params.nslot)
    (hen : ∀ n, n < s.params.nslot → s.en n = false → t.en n = false) : enabledFrom t m :=
  fun k hk => hen k (hk.trans_le hm) (h k hk)

/-- A word of the enable sweep extends what is swept by its four slots (43_interrupt_ops.md rule R224 I3). -/
theorem enabledFrom.enWord {s u : State} {w : Nat} (h : enabledFrom s (4 * w)) (hspace : s.params.spaceOk = true)
    (hwf : Memory.wf s.mem = true) (hw : w < s.params.bitmapWords)
    (hu : s.memWrite (s.params.ctrlBase + s.params.enOff + BitVec.ofNat 32 (4 * w)) 4 0#32 = some u) :
    enabledFrom u (4 * (w + 1)) := by
  intro k hk
  obtain ⟨hp, -⟩ := memWrite_frame hu
  simp only [State.en, hp]
  by_cases hlow : k < 4 * w
  · exact memWrite_zero_latchAt hwf hu (h k hlow)
  · obtain ⟨j, rfl⟩ : ∃ j, k = 4 * w + j := ⟨k - 4 * w, by omega⟩
    have hslot : 4 * w + j < s.params.nslot := by rw [Params.nslot]; omega
    have hj := memWrite_word_latchAt_same hwf hu (k := j) (by omega)
    rwa [enWordAddr_toNat hspace hw, Nat.add_assoc, ← enAddr_toNat hspace hslot, BitVec.getLsbD_zero] at hj

/-! ### What keeps the invariant -/

/-- It speaks of the enable bits, of INSTALL's micro-step and of whether INSTALL has completed; a change that sets no
enable bit and leaves the other two alone keeps it. -/
theorem EnableBitsOk.mono {s t : State} (h : EnableBitsOk s) (hp : t.params = s.params)
    (hn : t.itd.install = s.itd.install) (hd : s.itd.dispState = .uninstalled → t.itd.dispState = .uninstalled)
    (hen : ∀ n, n < s.params.nslot → s.en n = false → t.en n = false) : EnableBitsOk t := by
  cases hi : s.itd.install with
  | none =>
    rw [enableBitsOk_none_iff hi] at h
    rw [enableBitsOk_none_iff (hn.trans hi), hp]
    intro hinst n hlt ht
    refine h (mt hd hinst) n hlt ?_
    by_contra hs
    rw [hen n hlt (Bool.eq_false_iff.2 hs)] at ht
    cases ht
  | some nx =>
    cases nx with
    | vector => exact enableBitsOk_of_vector (hn.trans hi)
    | enWord w =>
      obtain ⟨hw, hswept⟩ := (enableBitsOk_enWord_iff hi).1 h
      rw [enableBitsOk_enWord_iff (hn.trans hi), hp]
      exact ⟨hw, hswept.mono (by rw [Params.nslot]; omega) hen⟩
    | pendWord w =>
      obtain ⟨hw, hswept⟩ := (enableBitsOk_pendWord_iff hi).1 h
      rw [enableBitsOk_pendWord_iff (hn.trans hi), hp]
      exact ⟨hw, hswept.mono le_rfl hen⟩
    | finish =>
      rw [enableBitsOk_finish_iff (hn.trans hi), hp]
      exact ((enableBitsOk_finish_iff hi).1 h).mono le_rfl hen

/-! ### Every instruction -/

/-- After a word of the enable sweep: the next word, or the pending sweep with every slot disabled (43_interrupt_ops.md
rule R224 I3). -/
theorem enableBitsOk_afterEnWord {s : State} {w : Nat} (hn : s.itd.install = some (afterEnWord s.params w))
    (hw : w < s.params.bitmapWords) (h : enabledFrom s (4 * (w + 1))) : EnableBitsOk s := by
  rw [afterEnWord] at hn
  split at hn
  · exact (enableBitsOk_enWord_iff hn).2 ⟨‹_›, h⟩
  · have hlast : s.params.nslot = 4 * (w + 1) := by rw [Params.nslot]; omega
    rw [enableBitsOk_pendWord_iff hn, hlast]
    exact ⟨by omega, h⟩

/-- After a word of the pending sweep: the next word, or I5 (rule R224 I4). -/
theorem enableBitsOk_afterPendWord {s : State} {w : Nat} (hn : s.itd.install = some (afterPendWord s.params w))
    (h : enabledFrom s s.params.nslot) : EnableBitsOk s := by
  rw [afterPendWord] at hn
  split at hn
  · exact (enableBitsOk_pendWord_iff hn).2 ⟨‹_›, h⟩
  · exact (enableBitsOk_finish_iff hn).2 h

/-- Each turn of INSTALL: a word of the enable sweep disables its slots, no other turn sets a latch, and I5 comes when
every slot is disabled (rule R224). -/
theorem EnableBitsOk.install {stub : Word} {s t : State} (h : EnableBitsOk s) (hok : s.params.ok = true)
    (hwf : Memory.wf s.mem = true) (hx : exec (.install stub) s = .next t) : EnableBitsOk t := by
  obtain ⟨-, -, hspace, -⟩ := Params.ok_cases hok
  obtain ⟨-, -, -, hpos, -⟩ := Params.spaceOk_cases hspace
  obtain ⟨-, ⟨-, c, rfl⟩ | ⟨-, -, -, rfl⟩ | ⟨-, rfl⟩ | ⟨w, u, hn, hu, rfl⟩ | ⟨w, u, hn, hu, rfl⟩ | ⟨hn, rfl⟩⟩ :=
    execInstall_next hx
  · exact h
  · exact enableBitsOk_of_vector rfl
  · exact (enableBitsOk_enWord_iff rfl).2 ⟨hpos, fun k hk => absurd hk (Nat.not_lt_zero k)⟩
  · obtain ⟨hp, -⟩ := memWrite_frame hu
    obtain ⟨hw, hswept⟩ := (enableBitsOk_enWord_iff hn).1 h
    have hnext : enabledFrom u (4 * (w + 1)) := hswept.enWord hspace hwf hw hu
    rw [← hp] at hw ⊢
    exact enableBitsOk_afterEnWord rfl hw hnext
  · obtain ⟨hp, -⟩ := memWrite_frame hu
    obtain ⟨-, hswept⟩ := (enableBitsOk_pendWord_iff hn).1 h
    have hnext : enabledFrom u s.params.nslot := hswept.mono le_rfl fun n _ hs => by
      rw [State.en, hp]
      exact memWrite_zero_latchAt hwf hu hs
    rw [← hp] at hnext ⊢
    exact enableBitsOk_afterPendWord rfl hnext
  · have hswept := (enableBitsOk_finish_iff hn).1 h
    refine (enableBitsOk_none_iff rfl).2 fun _ n hlt hs => ?_
    exact absurd (hs.symm.trans (hswept n hlt)) (by decide)

/-- ENABLE sets the enable bit of a recognized source, and only after INSTALL (43_interrupt_ops.md rule R225). -/
theorem EnableBitsOk.enable {arg : Word} {s t : State} (h : EnableBitsOk s) (hd : DispatcherOk s)
    (hok : s.params.ok = true) (hwf : Memory.wf s.mem = true) (hx : exec (.enable arg) s = .next t) :
    EnableBitsOk t := by
  obtain ⟨-, -, hspace, hirq⟩ := Params.ok_cases hok
  obtain ⟨-, -, -, ⟨-, -, -, hinst, -⟩, -⟩ := soleWriters _ _ _ hx
  have hp := exec_params hx
  rw [exec_enable] at hx
  obtain ⟨-, ⟨c, -, rfl⟩ | ⟨-, -, hpre, hx⟩⟩ := command_next hx
  · exact h
  obtain ⟨hon, -⟩ := needInstalledIrq_none.1 hpre
  have hs : s.itd.install = none := by
    obtain ⟨-, -, -, -, -, hbusy⟩ := hd
    by_contra hne
    exact hon (hbusy (Option.isSome_iff_ne_none.2 hne))
  have ht : t.itd.install = none := by
    by_contra hne
    obtain ⟨stub, hi⟩ := hinst (.inr (.inr fun heq => hne (heq.trans hs)))
    cases hi
  rw [enableBitsOk_none_iff hs] at h
  rw [enableBitsOk_none_iff ht, hp]
  intro _ n hlt hen
  rcases writeSlot_latchAt hwf activate_mem hx with heq | ⟨id, hw⟩
  · refine h hon n hlt ?_
    rw [State.en, ← heq, ← hp]
    exact hen
  · rw [State.en, hp, hw] at hen
    split at hen
    · next haddr =>
      rw [enAddr_toNat hspace hlt, enAddr_toNat hspace (irqOf_lt hirq id)] at haddr
      rw [Nat.add_left_cancel haddr]
      exact irqOf_mem _ id
    · exact h hon n hlt hen

/-- Every other instruction sets no enable bit and leaves INSTALL's micro-step and the dispatcher's state alone. -/
theorem EnableBitsOk.exec {i : Instr} {s t : State} (h : EnableBitsOk s) (hd : DispatcherOk s)
    (hok : s.params.ok = true) (hwf : Memory.wf s.mem = true) (hx : exec i s = .next t) : EnableBitsOk t := by
  obtain ⟨-, -, -, ⟨hdisp, -, -, hinst, -⟩, -, hlatch⟩ := soleWriters i s t hx
  by_cases henable : ∃ id, i = .enable id
  · obtain ⟨id, rfl⟩ := henable
    exact h.enable hd hok hwf hx
  by_cases hinstall : ∃ stub, i = .install stub
  · obtain ⟨stub, rfl⟩ := hinstall
    exact h.install hok hwf hx
  have hds : t.itd.dispState = s.itd.dispState := by
    by_contra hne
    exact (hdisp hne).elim hinstall henable
  have hnx : t.itd.install = s.itd.install := by
    by_contra hne
    exact hinstall (hinst (.inr (.inr hne)))
  refine h.mono (exec_params hx) hnx hds.trans fun n hlt hs => ?_
  obtain ⟨hset, -⟩ := hlatch hok hwf n hlt
  exact Bool.eq_false_iff.2 fun ht => henable (hset hs ht)

theorem EnableBitsOk.runWord {w : FetchWord} {s t : State} (h : EnableBitsOk s) (hd : DispatcherOk s)
    (hok : s.params.ok = true) (hwf : Memory.wf s.mem = true) (hx : runWord w s = .next t) : EnableBitsOk t := by
  rcases runWord_next hx with ⟨i, -, hi⟩ | ⟨op, -, rfl⟩
  · exact h.exec hd hok hwf hi
  · exact h

/-! ### Every step -/

theorem EnableBitsOk.deliver {s : State} (h : EnableBitsOk s) : EnableBitsOk s.deliver := by
  rcases deliver_cases s with he | ⟨n, -, he⟩ <;> rw [he] <;> exact h

/-- IRQ_RAISE sets a pending latch, which is no enable bit (60_exceptions.md rule R260). -/
theorem EnableBitsOk.raise {s : State} (h : EnableBitsOk s) (hspace : s.params.spaceOk = true) {n : Nat}
    (hn : n < s.params.nslot) : EnableBitsOk (s.setLatch (pendAddr s.params n).toNat true) := by
  refine h.mono rfl rfl id fun k hk hs => ?_
  have hread := Memory.read_write_other s.mem _ _ (slotByte true) (enAddr_ne_pendAddr hspace hk hn)
  exact (congrArg (·.getLsbD 0) hread).trans hs

theorem EnableBitsOk.did {s t : State} {es : List Event} (h : EnableBitsOk s) (hdisp : DispatcherOk s)
    (hok : s.params.ok = true) (hwf : Memory.wf s.mem = true) (hd : Did s es t) : EnableBitsOk t := by
  have hs : EnableBitsOk (s.withSched es) := h
  have hdisp' : DispatcherOk (s.withSched es) := hdisp
  cases hd with
  | tick => exact h
  | env e => exact h
  | raise n hn =>
    obtain ⟨-, -, hspace, -⟩ := Params.ok_cases hok
    exact hs.raise hspace hn
  | trapFatal c hq => exact h
  | trap v hsched hq hv hu hp => exact h
  | delay w i _ hr hdec hx => exact hs.exec hdisp' hok hwf hx
  | micro i _ hr hp hdec hx => exact hs.exec hdisp' hok hwf hx
  | cmd w _ hr hp hc hx =>
    have hport : EnableBitsOk { s.withSched es with port := { s.port with cmd := some w } } := h
    exact hport.runWord hdisp' hok hwf hx
  | deliver hr hp hc hdel => exact hs.deliver

/-- Settles O51: the reset is before INSTALL; anything else a step can have done keeps what the sweep has disabled and
enables recognized slots only. -/
theorem enableBitsOkKept : Obligations.EnableBitsOkKept := by
  rintro s t ⟨hwf, -⟩ hdisp h hs
  obtain ⟨hok, es, ⟨-, rfl⟩ | ⟨-, hd⟩⟩ := step_did hs
  · exact enableBitsOk_powerUp _ _
  · exact h.did hdisp hok hwf hd

end Sys2Proof.Machine
end

section
/-! Taking a trap (60_exceptions.md rule R262 to rule R269): the arbiter, the delivery of an interrupt trap, an injected
trap, and that nothing else enters TRAPPED. -/

namespace Sys2Proof.Machine

/-! ### The arbiter -/

/-- Settles O44. -/
theorem arbiterOffersCandidate : Obligations.ArbiterOffersCandidate := by
  refine fun draws cand => ⟨fun hnone => ?_, fun hsome => ?_, fun n hsole => ?_⟩
  · rw [hnone, arbSelect]
  · obtain ⟨n, hn, hmem⟩ := arbSelect_some draws hsome
    exact ⟨n, hmem, hn⟩
  · rw [hsole, arbSelect]

/-! ### Delivery at a turn of the block -/

/-- At a turn of the block its own agents act, in the state with the entry for the turn used up. -/
theorem step_ownTurn {s s1 : State} (hok : s.params.ok = true) (hturn : ownTurn s s1) :
    step s = act (ownAction s) s1 := by
  rw [step, if_pos hok, nextAction_ownTurn hturn]

theorem ownTurn_port {s s1 : State} (h : ownTurn s s1) : s1.port = s.port := by
  obtain ⟨es, rfl⟩ := ownTurn_withSched h
  rfl

/-- A candidate there is, is taken (rule R263). -/
theorem deliver_of_candidates {s : State} (h : s.candidates ≠ []) : ∃ n, n ∈ s.candidates ∧
    s.deliver = ({ s with env := { s.env with arbDraws := s.env.arbDraws + 1 } } : State).enterTrap
      (interruptCause n) := by
  obtain ⟨n, hn, hmem⟩ := arbSelect_some s.env.arbDraws h
  exact ⟨n, hmem, by rw [State.deliver, hn]⟩

/-- The delivery condition implies that no command is in progress, so the trap unit has the turn (42_clock_sequencer.md
rule R171, rule R263). -/
theorem step_deliver {s s1 : State} (hok : s.params.ok = true) (hr : s.du.req = none) (hpc : s.seq.pc = .idle)
    (hd : s.deliverable = true) (hturn : ownTurn s s1) : step s = .next s1.deliver := by
  obtain ⟨hh, -, -, -, -, hcmd, -⟩ := deliverable_iff.1 hd
  have hown : ownAction s = .deliver := by simp [ownAction, hr, hpc, hcmd, hd]
  have hh1 : s1.port.halted = false := ownTurn_port hturn ▸ hh
  calc step s = act .deliver s1 := by rw [step_ownTurn hok hturn, hown]
    _ = .next s1.deliver := unlessHalted_of s1 (fun s => .next s.deliver) hh1

/-- Settles O38: the turn is the trap unit's, and the state it acts in differs from `s` in the schedule only. -/
theorem interruptDelivery : Obligations.InterruptDelivery := by
  intro s s1 hok hr hpc hd hturn
  obtain ⟨-, -, -, -, -, -, hcand⟩ := deliverable_iff.1 hd
  have hstep := step_deliver hok hr hpc hd hturn
  obtain ⟨es, rfl⟩ := ownTurn_withSched hturn
  obtain ⟨n, hmem, hdel⟩ := deliver_of_candidates (s := s.withSched es) hcand
  exact ⟨n, mem_candidates.1 hmem, hstep.trans (congrArg _ hdel)⟩

/-! ### An injected trap -/

/-- A scheduled injected trap waits for nothing when nothing is in progress (rule R264). -/
theorem step_injectTrap {s : State} {v : Word} {rest : List Event} (hok : s.params.ok = true)
    (hh : s.port.halted = false) (hq : s.quiet = true) (hs : s.env.sched = .trap v :: rest) :
    step s = injectTrap (s.withSched rest) v := by
  have hnext : nextAction s = (.event (.trap v), s.withSched rest) := by simp [nextAction, hs, hq]
  rw [step, if_pos hok, hnext]
  exact unlessHalted_of _ _ hh

theorem trapAdmitted_iff {s : State} {v : Word} :
    trapAdmitted s v = true ↔ v.getLsbD 31 = false ∨ s.itd.globalIe = true := by
  simp only [trapAdmitted, Bool.or_eq_true, Bool.not_eq_true']

section Injected

variable {s : State} {v : Word}

theorem injectTrap_notInstalled (ha : trapAdmitted s v = true) (hd : s.itd.dispState = .uninstalled) :
    injectTrap s v = .next (s.fatal .notInstalled) := by
  rw [injectTrap, if_pos ha, if_pos hd]

theorem injectTrap_nestedTrap (ha : trapAdmitted s v = true) (hd : s.itd.dispState ≠ .uninstalled)
    (hp : s.itd.trapPhase ≠ .idle) : injectTrap s v = .next (s.fatal .nestedTrap) := by
  rw [injectTrap, if_pos ha, if_neg hd, if_pos hp]

theorem injectTrap_taken (ha : trapAdmitted s v = true) (hd : s.itd.dispState ≠ .uninstalled)
    (hp : s.itd.trapPhase = .idle) : injectTrap s v = .next (s.enterTrap v) := by
  rw [injectTrap, if_pos ha, if_neg hd, if_neg (not_not.2 hp)]

theorem injectTrap_refused (ha : trapAdmitted s v = false) : injectTrap s v = .refused .eventNotAdmitted := by
  rw [injectTrap, if_neg (Bool.eq_false_iff.1 ha)]

end Injected

/-- Settles O37. -/
theorem injectedTrap : Obligations.InjectedTrap := by
  intro s v rest hok hh hq hs hv
  have ha : trapAdmitted (s.withSched rest) v = true := trapAdmitted_iff.2 hv
  rw [step_injectTrap hok hh hq hs]
  exact ⟨injectTrap_notInstalled ha, injectTrap_nestedTrap ha, injectTrap_taken ha⟩

/-! ### Nothing else enters TRAPPED -/

/-- The cause of a trap taken in `s`: a candidate's while interrupts are enabled, or the one injected, which needs
`global_ie` if its flag is set (rule R263, rule R264). -/
inductive TrapCause (s : State) : Word → Prop
  | interrupt (n : Nat) (hie : s.itd.globalIe = true) (hn : n ∈ s.candidates) : TrapCause s (interruptCause n)
  | injected (v : Word) (rest : List Event) (hs : s.env.sched = .trap v :: rest) (hv : trapAdmitted s v = true) :
      TrapCause s v

/-- The change from `s` to `t` is the taking of a trap (rule R265), `s` having met the conditions rule R263 and rule
R264 share. -/
structure TakesTrap (s t : State) : Prop where
  installed : s.itd.dispState ≠ .uninstalled
  noSequence : s.seq.busy = false
  noCommand : s.port.cmd = none
  idle : s.itd.trapPhase = .idle
  cause : TrapCause s t.itd.cause
  itd : t.itd = { s.itd with cause := t.itd.cause, trapPhase := .trapped, trapPc := s.itd.tvec }

/-- Neither TRAPPED entered nor `cause` or `trap_pc` written. -/
structure TakesNoTrap (s t : State) : Prop where
  phase : t.itd.trapPhase = .trapped → s.itd.trapPhase = .trapped
  cause : t.itd.cause = s.itd.cause
  trapPc : t.itd.trapPc = s.itd.trapPc

theorem TakesNoTrap.of_itd_eq {s t : State} (h : t.itd = s.itd) : TakesNoTrap s t := by
  constructor <;> simp [h]

/-- DISPATCH and TRET leave TRAPPED; no instruction enters it (43_interrupt_ops.md rule R229, rule R231). -/
theorem ItdStep.takesNoTrap {i : Instr} {s t : State} (h : ItdStep i s t.itd) : TakesNoTrap s t := by
  obtain ⟨-, -, -, -, hcause, hpc⟩ := h.dispatcherWriters
  refine ⟨?_, hcause, hpc⟩
  generalize t.itd = d at h
  cases h with
  | kept | installBegins | installGoesOn | installEnds | activated => exact id
  | dispatched | returned => exact nofun

theorem runWord_takesNoTrap {w : FetchWord} {s t : State} (hx : runWord w s = .next t) : TakesNoTrap s t := by
  rcases runWord_next hx with ⟨i, -, hi⟩ | ⟨op, -, rfl⟩
  · exact (exec_dispatcherWrote hi).itd.takesNoTrap
  · exact .of_itd_eq rfl

theorem takesTrap_deliver {s : State} (h : s.deliverable = true) (es : List Event) :
    TakesTrap s (s.withSched es).deliver := by
  obtain ⟨-, hu, hie, hbusy, hp, hcmd, hcand⟩ := deliverable_iff.1 h
  obtain ⟨n, hmem, hdel⟩ := deliver_of_candidates (s := s.withSched es) hcand
  rw [hdel]
  exact ⟨hu, hbusy, hcmd, hp, .interrupt n hie hmem, rfl⟩

/-- Of all that a step can have done, only a delivery and an admitted injection take a trap. -/
theorem Did.takesTrap_or {s t : State} {es : List Event} (h : Did s es t) : TakesTrap s t ∨ TakesNoTrap s t := by
  cases h with
  | tick => exact .inr (.of_itd_eq rfl)
  | env e => exact .inr (.of_itd_eq rfl)
  | raise n hn => exact .inr (.of_itd_eq rfl)
  | trapFatal c hq => exact .inr (.of_itd_eq rfl)
  | trap v hs hq hv hu hp =>
    obtain ⟨-, -, hbusy, hcmd⟩ := quiet_iff.1 hq
    exact .inl ⟨hu, hbusy, hcmd, hp, .injected v es hs hv, rfl⟩
  | delay w i _ hr hdec hx => exact .inr { (exec_dispatcherWrote hx).itd.takesNoTrap with }
  | micro i _ hr hp hdec hx => exact .inr { (exec_dispatcherWrote hx).itd.takesNoTrap with }
  | cmd w _ hr hp hc hx => exact .inr { runWord_takesNoTrap hx with }
  | deliver hr hp hc hdel => exact .inl (takesTrap_deliver hdel es)

/-- Settles O55: the reset leaves no trap in progress; any other step takes a trap under its conditions, or none. -/
theorem trapEntryOnlyWhen : Obligations.TrapEntryOnlyWhen := by
  intro s t h
  obtain ⟨-, es, ⟨hs, rfl⟩ | ⟨hh, hd⟩⟩ := step_did h
  · exact ⟨fun _ hp => (nomatch hp), fun hreset => absurd hs (hreset es)⟩
  rcases hd.takesTrap_or with ⟨hu, hbusy, hcmd, hp, hcause, hitd⟩ | ⟨hphase, hcause, hpc⟩
  · refine ⟨fun _ _ => ⟨hh, hu, hbusy, hcmd, hp, by rw [hitd], ?_⟩, fun _ _ => ⟨hp, by rw [hitd]⟩⟩
    generalize t.itd.cause = c at hcause
    cases hcause with
    | interrupt n hie hmem =>
      obtain ⟨hn, hen, hpend⟩ := mem_candidates.1 hmem
      exact .inl ⟨hie, n, hn, hen, hpend, rfl⟩
    | injected v rest hs hv =>
      exact .inr ⟨c, rest, hs, rfl, fun hflag => (trapAdmitted_iff.1 hv).resolve_left (by simp [hflag])⟩
  · refine ⟨fun hnot ht => absurd (hphase ht) hnot, fun _ hne => ?_⟩
    exact (hne.elim (· hcause) (· hpc)).elim

end Sys2Proof.Machine
end

section
/-! The halted block and the hardware reset (60_exceptions.md rule R250, 70_reset_and_hazards.md rule R300): the reset
acts in every state, and while `halted = 1` nothing else does. -/

namespace Sys2Proof.Machine

/-! ### A halted block -/

theorem command_halted {s : State} {context form : Bool} {pre : Option FaultCode} {body : State → Result}
    (h : s.port.halted = true) : command s context form pre body = .fault (.halted s.port.faultCode) :=
  unlessHalted_halted _ _ h

/-- Each turn of INSTALL has the guard. -/
theorem execInstall_halted {s : State} (stub : Word) (h : s.port.halted = true) :
    execInstall stub s = .fault (.halted s.port.faultCode) := by
  unfold execInstall
  split
  · exact command_halted h
  all_goals exact unlessHalted_halted _ _ h

/-- Every instruction's meaning opens with the guard (rule R30); INSTALL's after a look at its micro-step. -/
theorem exec_halted {s : State} (h : s.port.halted = true) (i : Instr) :
    exec i s = .fault (.halted s.port.faultCode) := by
  cases i
  case install stub => exact execInstall_halted stub h
  all_goals exact if_pos h

/-- Of all that can come next only the reset has no guard. -/
theorem act_halted {a : Action} {s : State} (ha : a ≠ .event .reset) (h : s.port.halted = true) :
    act a s = .fault (.halted s.port.faultCode) := by
  unfold act
  split
  · exact absurd rfl ha
  all_goals exact unlessHalted_halted _ _ h

/-! ### The reset -/

theorem ownAction_ne_event (s : State) (e : Event) : ownAction s ≠ .event e := by
  rcases ownAction_cases s with ⟨w, -, h⟩ | ⟨-, -, h⟩ | ⟨w, -, -, -, h⟩ | ⟨-, -, -, -, h⟩ | ⟨-, -, -, -, h⟩ <;>
    rw [h] <;> exact nofun

/-- The reset comes next only where it is the next entry of the schedule. -/
theorem nextAction_ne_reset {s : State} (h : ∀ rest, s.env.sched ≠ .reset :: rest) :
    (nextAction s).1 ≠ .event .reset := by
  unfold nextAction
  split
  · exact ownAction_ne_event s _
  · exact ownAction_ne_event s _
  · split
    · exact nofun
    · exact ownAction_ne_event s _
  · split
    · exact nofun
    · exact ownAction_ne_event s _
  · next e rest _ _ _ hs =>
    intro he
    cases he
    exact h rest hs

/-- Using up an entry of the schedule neither halts nor resumes the block. -/
theorem nextAction_halt (s : State) :
    (nextAction s).2.port.halted = s.port.halted ∧ (nextAction s).2.port.faultCode = s.port.faultCode := by
  rcases nextAction_cases s with ⟨es, h⟩ | ⟨w, es, -, h⟩ | ⟨v, es, -, h⟩ | ⟨e, es, -, h⟩ <;>
    rw [h] <;> exact ⟨rfl, rfl⟩

theorem step_reset {s : State} {rest : List Event} (hok : s.params.ok = true) (hs : s.env.sched = .reset :: rest) :
    step s = .next (s.withSched rest).hardReset := by
  have hnext : nextAction s = (.event .reset, s.withSched rest) := by rw [nextAction, hs]
  rw [step, if_pos hok, hnext]
  rfl

theorem step_halted {s : State} (hok : s.params.ok = true) (hh : s.port.halted = true)
    (h : ∀ rest, s.env.sched ≠ .reset :: rest) : step s = .fault (.halted s.port.faultCode) := by
  obtain ⟨hhalted, hcode⟩ := nextAction_halt s
  rw [step, if_pos hok, act_halted (nextAction_ne_reset h) (hhalted.trans hh), hcode]

/-- Settles O34. -/
theorem haltedIsStuck : Obligations.HaltedIsStuck :=
  fun _ hok => ⟨fun _ hs => step_reset hok hs, fun hh => ⟨exec_halted hh, step_halted hok hh⟩⟩

end Sys2Proof.Machine
end

section
/-! What is refused (log 13, log 14, log 16, log 20, log 21): events that cannot occur, words that never occur on the
delay unit's port, a selection that is no key, and accesses outside the slots. -/

namespace Sys2Proof.Machine

/-! ### Words that never occur -/

/-- A turn of the block in which the agent's word has no meaning. -/
theorem step_neverOccurs {s s1 : State} {w : BitVec 67} {r : Reject} (hok : s.params.ok = true)
    (hh : s.port.halted = false) (hturn : ownTurn s s1) (hr : s.du.req = some w)
    (hd : decodeDelay w = .error r) : step s = .refused .neverOccurs := by
  have hown : ownAction s = .run (.delay w) := by rw [ownAction, hr]
  have hh1 : s1.port.halted = false := ownTurn_port hturn ▸ hh
  have hdec : decode (.delay w) = .error r := hd
  have hrun : runWord (.delay w) s1 = .refused .neverOccurs := by
    cases r with
    | reservedOpcode op => exact absurd hdec (decode_delay_ne_reserved w op)
    | _ => rw [runWord, hdec]
  calc step s = act (.run (.delay w)) s1 := by rw [step_ownTurn hok hturn, hown]
    _ = runWord (.delay w) s1 := unlessHalted_of _ _ hh1
    _ = .refused .neverOccurs := hrun

/-- The operations 5 to 7 have no row (30_encoding.md rule R111). -/
theorem decodeDelay_reservedOp {op : BitVec 3} (a : BitVec 64) (h : op ∈ [5#3, 6#3, 7#3]) :
    ∃ r, decodeDelay (duWord op a) = .error r := by
  simp only [List.mem_cons, List.not_mem_nil, or_false] at h
  rw [decodeDelay, duOpOf_duWord]
  rcases h with rfl | rfl | rfl <;> exact ⟨_, rfl⟩

theorem decodeDuration_high {a : BitVec 64} (make : BitVec 32 → Instr) (h : a.extractLsb' 32 32 ≠ 0#32) :
    ∃ r, decodeDuration a make = .error r := by
  rw [decodeDuration, if_neg h]
  exact ⟨_, rfl⟩

/-- The duration of WAIT_MICROS and WAIT_MILLIS is of 32 bits (rule R111). -/
theorem decodeDelay_longDuration {op : BitVec 3} {a : BitVec 64} (h : op ∈ [3#3, 4#3])
    (ha : a.extractLsb' 32 32 ≠ 0#32) : ∃ r, decodeDelay (duWord op a) = .error r := by
  simp only [List.mem_cons, List.not_mem_nil, or_false] at h
  rw [decodeDelay, duOpOf_duWord, duArgOf_duWord]
  rcases h with rfl | rfl <;> exact decodeDuration_high _ ha

/-! ### Events and micro-steps -/

theorem step_raise_noSlot {s : State} {n : Nat} {rest : List Event} (hok : s.params.ok = true)
    (hh : s.port.halted = false) (hn : s.params.nslot ≤ n) (hs : s.env.sched = .raise n :: rest) :
    step s = .refused .eventNotAdmitted :=
  (step_occurs hok hh hs (.inr ⟨n, rfl⟩)).trans (if_neg hn.not_gt)

theorem exec_sReach_notKey {s : State} (hh : s.port.halted = false)
    (h : s.params.sysclkEntry s.cfg.tgtSysclk = none) : exec .sReach s = .refused .sysclkSelNotKey := by
  rw [exec, execSReach, unlessHalted_of _ _ hh, h]

/-! ### Accesses -/

/-- A slot is a byte inside a region (20_memory.md rule R74). -/
theorem isSlot_iff {p : Params} {a : Nat} : isSlot p a = true ↔ insideRegion p a 1 := by
  rw [isSlot, Bool.or_eq_true, inEnable_iff, inPending_iff, insideRegion]
  omega

/-- A word access is to an aligned word inside a region (rule R75, rule R77). -/
theorem isSlotWord_iff {p : Params} {a : Nat} : isSlotWord p a = true ↔ a % 4 = 0 ∧ insideRegion p a 4 := by
  simp only [isSlotWord, Bool.and_eq_true, Bool.or_eq_true, decide_eq_true_eq, inEnable_iff, inPending_iff,
    insideRegion]
  omega

/-- The accesses rule R78 gives no meaning. -/
theorem access_refused {s : State} {addr : Addr} {n : Nat} (v : Word)
    (hbyte : n = 1 → isSlot s.params addr.toNat = false) (hword : n = 4 → isSlotWord s.params addr.toNat = false) :
    s.memRead addr n = none ∧ s.memWrite addr n v = none := by
  unfold State.memRead State.memWrite
  by_cases h1 : n = 1
  · simp [h1, hbyte h1]
  · by_cases h4 : n = 4
    · simp [h4, hword h4]
    · simp [h1, h4]

/-- Settles O33. -/
theorem refusedInputs : Obligations.RefusedInputs := by
  refine ⟨fun s hok hh => ⟨fun n rest hn hs => step_raise_noSlot hok hh hn hs, fun v rest hq hflag hie hs => ?_,
    fun op a s1 hop hturn hr => ?_, fun op a s1 hop ha hturn hr => ?_, exec_sReach_notKey hh⟩,
    fun s addr n v hbyte hword => ?_⟩
  · have ha : trapAdmitted (s.withSched rest) v = false := by
      rw [Bool.eq_false_iff, ne_eq, trapAdmitted_iff]
      simp [hflag, hie]
    exact (step_injectTrap hok hh hq hs).trans (injectTrap_refused ha)
  · obtain ⟨r, hd⟩ := decodeDelay_reservedOp a hop
    exact step_neverOccurs hok hh hturn hr hd
  · obtain ⟨r, hd⟩ := decodeDelay_longDuration hop ha
    exact step_neverOccurs hok hh hturn hr hd
  · exact access_refused v (fun h1 => Bool.eq_false_iff.2 (mt isSlot_iff.1 (hbyte h1)))
      fun h4 => Bool.eq_false_iff.2 (mt isSlotWord_iff.1 (hword h4))

end Sys2Proof.Machine
end

section
/-! The block after a full hardware reset (70_reset_and_hazards.md rule R301): the values 10_state.md rule R55 states, and
what the block answers to the first command. -/

namespace Sys2Proof.Machine

/-- No trap is delivered before INSTALL completes (60_exceptions.md rule R263). -/
theorem deliverable_of_uninstalled {s : State} (h : s.itd.dispState = .uninstalled) : s.deliverable = false := by
  rw [Bool.eq_false_iff, ne_eq, deliverable_iff]
  exact fun ⟨_, hinstalled, _⟩ => hinstalled h

section FirstCommand

variable {i : Instr} (p : Params) (e : Env)

theorem powerUp_notHalted : (State.powerUp p e).port.halted = false := rfl

theorem powerUp_uninstalled : (State.powerUp p e).itd.dispState = .uninstalled := rfl

theorem powerUp_notTrapped : (State.powerUp p e).itd.trapPhase ≠ .trapped := by
  simp [State.powerUp]

theorem powerUp_notInHandler : (State.powerUp p e).itd.trapPhase ≠ .inHandler := by
  simp [State.powerUp]

/-- The token is there from the start (41_clock_config.md rule R150). -/
theorem powerUp_token : (State.powerUp p e).seq.state = .unconfigured ∨ (State.powerUp p e).seq.state = .xtalTimeout :=
  .inl rfl

/-- A configuration command with a well-formed operand completes, the token being there. -/
theorem configure_atReset {form : Bool} (set : Builder → Builder) (hf : form = true) :
    ∃ t, configure (.powerUp p e) form set = .next t ∧ t.port.halted = false :=
  ⟨_, configure_accepted (powerUp_notHalted p e) (powerUp_notTrapped p e) hf (powerUp_token p e), rfl⟩

theorem cfgFrequency_atReset {hz : Word} (hi : i ∈ [Instr.cfgUart hz, .cfgSpi hz, .cfgXtal hz]) (h0 : hz ≠ 0#32) :
    ∃ t, exec i (.powerUp p e) = .next t ∧ t.port.halted = false := by
  obtain ⟨set, hx⟩ := exec_cfgFrequency hi (.powerUp p e)
  rw [hx]
  exact configure_atReset p e set (formatH_iff.2 h0)

theorem cfgSysclk_atReset {arg : Word} (hhigh : arg.extractLsb' 8 24 = 0#24)
    (hkey : (p.sysclkEntry (arg.extractLsb' 0 8)).isSome = true) :
    ∃ t, exec (.cfgSysclk arg) (.powerUp p e) = .next t ∧ t.port.halted = false := by
  rw [exec_cfgSysclk]
  exact configure_atReset p e _ (formatS_iff.2 ⟨hhigh, hkey⟩)

theorem freeze_atReset : ∃ t, exec (.freeze 0#32) (.powerUp p e) = .next t ∧ t.port.halted = false := by
  obtain ⟨-, -, -, hstarts⟩ := freezeStarts (.powerUp p e) 0#32 (powerUp_notHalted p e)
  exact ⟨_, hstarts (powerUp_notTrapped p e) rfl (powerUp_token p e), rfl⟩

theorem install_atReset (stub : Word) :
    ∃ t, exec (.install stub) (.powerUp p e) = .next t ∧ t.port.halted = false :=
  ⟨_, exec_install_begins (powerUp_notHalted p e) rfl (powerUp_notTrapped p e) (powerUp_uninstalled p e), rfl⟩

/-- No descriptor exists before the first sequence ends (10_state.md rule R32). -/
theorem descriptorRead_atReset
    (hi : i ∈ [Instr.rdSysclk 0#32, .rdUart 0#32, .rdSpi 0#32, .rdPllen 0#32, .rdXtal 0#32]) :
    Raises i (.powerUp p e) .notFrozen := by
  obtain ⟨hreads, -⟩ := descriptorReads (.powerUp p e) 0#32 (powerUp_notHalted p e)
  obtain ⟨-, -, hnotFrozen⟩ := hreads i hi
  exact hnotFrozen (powerUp_notTrapped p e) rfl rfl

theorem slotCommand_atReset {id : Word} (hid : id ∈ [0#32, 1#32, 2#32, 3#32])
    (hi : i ∈ [Instr.enable id, .disable id, .clear id]) : Raises i (.powerUp p e) .notInstalled :=
  slotCommand_notInstalled hi (powerUp_notHalted p e) (powerUp_notTrapped p e)
    (formatI_of_mem id (List.mem_append_left [0xFF#32] hid)) (powerUp_uninstalled p e)

theorem dispatch_atReset (frame : Word) : Raises (.dispatch frame) (.powerUp p e) .badContext :=
  (dispatchSelects _ frame (powerUp_notHalted p e)).1 (powerUp_notTrapped p e)

theorem tret_atReset : Raises (.tret 0#32) (.powerUp p e) .badContext :=
  (tretReturns _ 0#32 (powerUp_notHalted p e)).1 (powerUp_notInHandler p e)

end FirstCommand

/-- Settles O35: the values are the power-up state's own fields; the first command meets a block that has the token, no
descriptor, no INSTALL and no trap. -/
theorem resetState : Obligations.ResetState := by
  rintro p e _ rfl
  refine ⟨⟨rfl, rfl, rfl, rfl, rfl, rfl, rfl, rfl, rfl, rfl, rfl, rfl, rfl, rfl, rfl, rfl, rfl, rfl, rfl, rfl, rfl, rfl,
      deliverable_of_uninstalled (powerUp_uninstalled p e)⟩, fun i arg hz h0 hhigh hkey stub hi => ?_,
    fun i hi => descriptorRead_atReset p e hi, fun id hid i hi => slotCommand_atReset p e hid hi,
    dispatch_atReset p e, tret_atReset p e⟩
  simp only [List.mem_cons, List.not_mem_nil, or_false] at hi
  obtain rfl | rfl | rfl | rfl | rfl | rfl := hi
  · exact cfgSysclk_atReset p e hhigh hkey
  · exact cfgFrequency_atReset p e (by simp) h0
  · exact cfgFrequency_atReset p e (by simp) h0
  · exact cfgFrequency_atReset p e (by simp) h0
  · exact freeze_atReset p e
  · exact install_atReset p e stub

end Sys2Proof.Machine
end
